-- ==== Sys2Proof/Word.lean ====
section
/-! DEFINITION. The word types of the codec: bytes of the buffers and 32-bit registers
(spec/00_scope.md R10, spec/10_state.md R22, R29). -/

namespace Sys2Proof

/-- A byte of `IBUF` or `OBUF` (R10). -/
abbrev Byte := BitVec 8

/-- A 32-bit register or table entry (R22, R29, R31, R35). -/
abbrev Word := BitVec 32

end Sys2Proof
end

