-- ==== Sys2Proof/Config.lean ====
section
/-! DEFINITION. The free values of the codec (spec/93_implementation_defined.md U3, U4, U8): what the
spec leaves unspecified is an unconstrained constant applied to plain data. Nothing in Lean can evaluate
them, so no proof can rest on a value. The numeric parameters of spec/00_scope.md R8 and R9 stand in
Sys2Proof/Machine/Tables.lean. -/

namespace Sys2Proof.Config

/-- The value of an unspecified entry `index` of space `space` (R61), for the occasion `tag` at which
the contents became unspecified (U3: the same value if read twice without a write between). -/
opaque freeWord (space tag index : Nat) : BitVec 32

/-- The value of an unspecified register `reg` of the CSR file (R22), for the occasion `tag` (U4). -/
opaque freeNat (reg tag : Nat) : Nat

end Sys2Proof.Config
end

