-- ==== Sys2Proof/Machine/Bits.lean ====
section
/-! DEFINITION. Bit fields of the stream (spec/00_scope.md R10, R11; spec/20_memory.md R63, R64): a
value's bits LSB first, their sum back, reversal within a width, and the packing of bits into bytes. -/

namespace Sys2Proof

/-- Bits `0 .. n−1` of `v`, bit 0 first (R63, R141). -/
def bitsOf (v n : Nat) : List Bool := (List.range n).map fun i => v.testBit i

/-- The unsigned integer whose bit `i` is the `i`-th of the list (R63). -/
def ofBits : List Bool → Nat
  | [] => 0
  | b :: bs => b.toNat + 2 * ofBits bs

/-- `rev_n(c)` (R11): bit `i` of the result is bit `n−1−i` of `c`. -/
def revBits (n c : Nat) : Nat := ofBits (bitsOf c n).reverse

/-- The `n`-bit field that starts `off` bits into a bit source, first bit as bit 0 (R63, R143). -/
def fieldAt (bit : Nat → Bool) (off n : Nat) : Nat :=
  ofBits ((List.range n).map fun i => bit (off + i))

/-- Packs bits into bytes LSB first (R63). `acc` is the byte under construction, whose next free bit
is `k`; a byte that a bit starts has its upper bits 0, one already begun is joined by OR (R141). -/
def packBits (acc k : Nat) : List Bool → List Byte
  | [] => if k = 0 then [] else [BitVec.ofNat 8 acc]
  | b :: bs =>
    let acc' := acc ||| (b.toNat <<< k)
    if k = 7 then BitVec.ofNat 8 acc' :: packBits 0 0 bs else packBits acc' (k + 1) bs

end Sys2Proof
end

