-- ==== Sys2Proof/Syntax.lean ====
section
/-! DEFINITION. The names of the codec: its errors, alphabets, host transactions, decode modes, lookup
tables and tokens as plain data, and `Instr`, the ONE inductive with a constructor for each row of
spec/opcode_table.json (spec/30_encoding.md R90 to R112). Commands and pseudo-commands take no operand
(R90: the opcode alone is the format); stream elements carry the fields that stand in the stream. -/

namespace Sys2Proof

/-- The eight errors (spec/60_exceptions.md R350, R351). -/
inductive HwError where
  | invalidConfig
  | truncatedInput
  | invalidBlockType
  | invalidStoredLength
  | invalidHuffmanCode
  | windowSizeExceeded
  | invalidHeader
  | checksumMismatch
deriving DecidableEq, Repr

/-- The three alphabets (spec/41_huffman_encoder.md R160). -/
inductive Alphabet where
  | ll
  | d
  | cl
deriving DecidableEq, Repr

/-- What the host can do to the block: one element of one space written or read (R42, R94). -/
inductive HostTxn where
  | write (space index value : Nat)
  | read (space index : Nat)
deriving DecidableEq, Repr

/-- A token of the match finder (R14, R35): a literal byte or a match. -/
inductive Token where
  | lit (b : BitVec 8)
  | copy (len dist : Nat)
deriving DecidableEq, Repr

/-- One codeword of a decode table: every index of `DTBL_a` whose low `len` bits are `pattern`
holds the entry `(sym, len)` (R191, R193). -/
structure DecRow where
  pattern : Nat
  len : Nat
  sym : Nat
deriving DecidableEq, Repr

/-- The contents of a `DTBL_a` (R34, R190): what a successful `BuildDecoder` left, as its codewords
(assumption log 7), or unspecified contents, told apart by a tag (assumption log 4). -/
inductive DecTable where
  | built (rows : List DecRow)
  | unspecified (tag : Nat)
deriving DecidableEq, Repr

/-- Which Huffman-coded block's data is being decoded (R112). -/
inductive BlockKind where
  | fixed
  | dynamic
deriving DecidableEq, Repr

/-- The decode mode of R112: which element the bits at `RPOS` are. `idle` is every moment outside
`DECBLK` and `DECOMPRESS`. Each mode carries what has been read and is still needed. -/
inductive Phase where
  | idle
  | zlibHdr
  | blockHdr
  | storedLen
  | storedData (len : Nat)
  | dynHdr
  | dynClLen (nl nd nc j : Nat)
  | dynLens (nl nd : Nat) (seq : List Nat)
  | data (k : BlockKind)
  | lenExtra (k : BlockKind) (sym : Nat)
  | distCode (k : BlockKind) (length : Nat)
  | distExtra (k : BlockKind) (length dsym : Nat)
  | zlibAdler
deriving DecidableEq, Repr

/-- One constructor per row of spec/opcode_table.json. -/
inductive Instr where
  /-- `COMPRESS`. Command opcode 0x01 (R300). -/
  | compress
  /-- `DECOMPRESS`. Command opcode 0x02 (R310). -/
  | decompress
  /-- `BITINIT`. Command opcode 0x10 (R140). -/
  | bitinit
  /-- `WRBITS`. Command opcode 0x11 (R147). -/
  | wrbits
  /-- `RDBITS`. Command opcode 0x12 (R148). -/
  | rdbits
  /-- `ALIGNW`. Command opcode 0x13 (R149). -/
  | alignw
  /-- `ALIGNR`. Command opcode 0x14 (R150). -/
  | alignr
  /-- `HBUILD`. Command opcode 0x20 (R161). -/
  | hbuild
  /-- `HCANON`. Command opcode 0x21 (R170). -/
  | hcanon
  /-- `HPUT`. Command opcode 0x22 (R174). -/
  | hput
  /-- `HDBUILD`. Command opcode 0x28 (R191). -/
  | hdbuild
  /-- `HDSYM`. Command opcode 0x29 (R196). -/
  | hdsym
  /-- `MFIND`. Command opcode 0x30 (R212). -/
  | mfind
  /-- `TOKENIZE`. Command opcode 0x31 (R220). -/
  | tokenize
  /-- `ENCBLK`. Command opcode 0x40 (R240). -/
  | encblk
  /-- `DECBLK`. Command opcode 0x48 (R270). -/
  | decblk
  /-- `ADLER32`. Command opcode 0x50 (R332). -/
  | adler32
  /-- `RESERVED_CMD`. A reserved opcode written to `CMD` (R93). -/
  | reservedCmd (op : BitVec 8)
  /-- `ZCOMPRESS`. Pseudo-command: `SET CFG_FRAMING, 1 ; COMPRESS` (R95). -/
  | zcompress
  /-- `ZDECOMPRESS`. Pseudo-command: `SET CFG_FRAMING, 1 ; DECOMPRESS` (R95). -/
  | zdecompress
  /-- `RAWCOMPRESS`. Pseudo-command: `SET CFG_FRAMING, 0 ; COMPRESS` (R95). -/
  | rawcompress
  /-- `RAWDECOMPRESS`. Pseudo-command: `SET CFG_FRAMING, 0 ; DECOMPRESS` (R95). -/
  | rawdecompress
  /-- `BLOCK_STORED`. Block header, BTYPE 0 (R101, R274). -/
  | blockStored (bfinal : Bool)
  /-- `BLOCK_FIXED`. Block header, BTYPE 1 (R101, R275). -/
  | blockFixed (bfinal : Bool)
  /-- `BLOCK_DYNAMIC`. Block header, BTYPE 2 (R101, R276). -/
  | blockDynamic (bfinal : Bool)
  /-- `BLOCK_RESERVED`. Block header, BTYPE 3 (R101, R273). -/
  | blockReserved (bfinal : Bool)
  /-- `STORED_LEN`. Stored-block `LEN`, `NLEN` after the skip to a byte boundary (R102, R274). -/
  | storedLen (len : BitVec 16) (nlen : BitVec 16)
  /-- `STORED_DATA`. The `LEN` raw bytes of a stored block (R102, R274). -/
  | storedData (payload : List (BitVec 8))
  /-- `FIXED_LIT_0_143`. Literal 0..143 under the fixed code, 8 bits (R105, R281). -/
  | fixedLit0To143 (sym : BitVec 8)
  /-- `FIXED_LIT_144_255`. Literal 144..255 under the fixed code, 9 bits (R105, R281). -/
  | fixedLit144To255 (sym : BitVec 8)
  /-- `FIXED_EOB`. End of block under the fixed code, 7 bits (R105, R282). -/
  | fixedEob
  /-- `FIXED_LEN_257_279`. Codeword of length symbol 257..279 under the fixed code, 7 bits (R105, R284). -/
  | fixedLen257To279 (sym : BitVec 9)
  /-- `FIXED_LEN_280_285`. Codeword of length symbol 280..285 under the fixed code, 8 bits (R105, R284). -/
  | fixedLen280To285 (sym : BitVec 9)
  /-- `FIXED_LL_286_287`. Codewords of symbols 286, 287 of the fixed code, 8 bits (R105, R283). -/
  | fixedLL286To287 (sym : BitVec 9)
  /-- `FIXED_DIST`. Distance codeword of the fixed code, 5 bits (R105, R284). -/
  | fixedDist (d : BitVec 5)
  /-- `DYN_LIT`. Literal under the transmitted code; `n` is its codeword's length (R281). -/
  | dynLit (sym : BitVec 8) (n : BitVec 4)
  /-- `DYN_EOB`. End of block under the transmitted code (R282). -/
  | dynEob (n : BitVec 4)
  /-- `DYN_LEN`. Codeword of a length symbol 257..285 under the transmitted code (R284). -/
  | dynLen (sym : BitVec 9) (n : BitVec 4)
  /-- `DYN_DIST`. Distance codeword under the transmitted code (R284). -/
  | dynDist (d : BitVec 5) (n : BitVec 4)
  /-- `LEN_257`. Length symbol 257: base 3, 0 extra bits (R106). -/
  | len257
  /-- `LEN_258`. Length symbol 258: base 4, 0 extra bits (R106). -/
  | len258
  /-- `LEN_259`. Length symbol 259: base 5, 0 extra bits (R106). -/
  | len259
  /-- `LEN_260`. Length symbol 260: base 6, 0 extra bits (R106). -/
  | len260
  /-- `LEN_261`. Length symbol 261: base 7, 0 extra bits (R106). -/
  | len261
  /-- `LEN_262`. Length symbol 262: base 8, 0 extra bits (R106). -/
  | len262
  /-- `LEN_263`. Length symbol 263: base 9, 0 extra bits (R106). -/
  | len263
  /-- `LEN_264`. Length symbol 264: base 10, 0 extra bits (R106). -/
  | len264
  /-- `LEN_265`. Length symbol 265: base 11, 1 extra bits (R106). -/
  | len265 (x : BitVec 1)
  /-- `LEN_266`. Length symbol 266: base 13, 1 extra bits (R106). -/
  | len266 (x : BitVec 1)
  /-- `LEN_267`. Length symbol 267: base 15, 1 extra bits (R106). -/
  | len267 (x : BitVec 1)
  /-- `LEN_268`. Length symbol 268: base 17, 1 extra bits (R106). -/
  | len268 (x : BitVec 1)
  /-- `LEN_269`. Length symbol 269: base 19, 2 extra bits (R106). -/
  | len269 (x : BitVec 2)
  /-- `LEN_270`. Length symbol 270: base 23, 2 extra bits (R106). -/
  | len270 (x : BitVec 2)
  /-- `LEN_271`. Length symbol 271: base 27, 2 extra bits (R106). -/
  | len271 (x : BitVec 2)
  /-- `LEN_272`. Length symbol 272: base 31, 2 extra bits (R106). -/
  | len272 (x : BitVec 2)
  /-- `LEN_273`. Length symbol 273: base 35, 3 extra bits (R106). -/
  | len273 (x : BitVec 3)
  /-- `LEN_274`. Length symbol 274: base 43, 3 extra bits (R106). -/
  | len274 (x : BitVec 3)
  /-- `LEN_275`. Length symbol 275: base 51, 3 extra bits (R106). -/
  | len275 (x : BitVec 3)
  /-- `LEN_276`. Length symbol 276: base 59, 3 extra bits (R106). -/
  | len276 (x : BitVec 3)
  /-- `LEN_277`. Length symbol 277: base 67, 4 extra bits (R106). -/
  | len277 (x : BitVec 4)
  /-- `LEN_278`. Length symbol 278: base 83, 4 extra bits (R106). -/
  | len278 (x : BitVec 4)
  /-- `LEN_279`. Length symbol 279: base 99, 4 extra bits (R106). -/
  | len279 (x : BitVec 4)
  /-- `LEN_280`. Length symbol 280: base 115, 4 extra bits (R106). -/
  | len280 (x : BitVec 4)
  /-- `LEN_281`. Length symbol 281: base 131, 5 extra bits (R106). -/
  | len281 (x : BitVec 5)
  /-- `LEN_282`. Length symbol 282: base 163, 5 extra bits (R106). -/
  | len282 (x : BitVec 5)
  /-- `LEN_283`. Length symbol 283: base 195, 5 extra bits (R106). -/
  | len283 (x : BitVec 5)
  /-- `LEN_284`. Length symbol 284: base 227, 5 extra bits (R106). -/
  | len284 (x : BitVec 5)
  /-- `LEN_285`. Length symbol 285: base 258, 0 extra bits (R106). -/
  | len285
  /-- `DIST_0`. Distance symbol 0: base 1, 0 extra bits (R107). -/
  | dist0
  /-- `DIST_1`. Distance symbol 1: base 2, 0 extra bits (R107). -/
  | dist1
  /-- `DIST_2`. Distance symbol 2: base 3, 0 extra bits (R107). -/
  | dist2
  /-- `DIST_3`. Distance symbol 3: base 4, 0 extra bits (R107). -/
  | dist3
  /-- `DIST_4`. Distance symbol 4: base 5, 1 extra bits (R107). -/
  | dist4 (x : BitVec 1)
  /-- `DIST_5`. Distance symbol 5: base 7, 1 extra bits (R107). -/
  | dist5 (x : BitVec 1)
  /-- `DIST_6`. Distance symbol 6: base 9, 2 extra bits (R107). -/
  | dist6 (x : BitVec 2)
  /-- `DIST_7`. Distance symbol 7: base 13, 2 extra bits (R107). -/
  | dist7 (x : BitVec 2)
  /-- `DIST_8`. Distance symbol 8: base 17, 3 extra bits (R107). -/
  | dist8 (x : BitVec 3)
  /-- `DIST_9`. Distance symbol 9: base 25, 3 extra bits (R107). -/
  | dist9 (x : BitVec 3)
  /-- `DIST_10`. Distance symbol 10: base 33, 4 extra bits (R107). -/
  | dist10 (x : BitVec 4)
  /-- `DIST_11`. Distance symbol 11: base 49, 4 extra bits (R107). -/
  | dist11 (x : BitVec 4)
  /-- `DIST_12`. Distance symbol 12: base 65, 5 extra bits (R107). -/
  | dist12 (x : BitVec 5)
  /-- `DIST_13`. Distance symbol 13: base 97, 5 extra bits (R107). -/
  | dist13 (x : BitVec 5)
  /-- `DIST_14`. Distance symbol 14: base 129, 6 extra bits (R107). -/
  | dist14 (x : BitVec 6)
  /-- `DIST_15`. Distance symbol 15: base 193, 6 extra bits (R107). -/
  | dist15 (x : BitVec 6)
  /-- `DIST_16`. Distance symbol 16: base 257, 7 extra bits (R107). -/
  | dist16 (x : BitVec 7)
  /-- `DIST_17`. Distance symbol 17: base 385, 7 extra bits (R107). -/
  | dist17 (x : BitVec 7)
  /-- `DIST_18`. Distance symbol 18: base 513, 8 extra bits (R107). -/
  | dist18 (x : BitVec 8)
  /-- `DIST_19`. Distance symbol 19: base 769, 8 extra bits (R107). -/
  | dist19 (x : BitVec 8)
  /-- `DIST_20`. Distance symbol 20: base 1025, 9 extra bits (R107). -/
  | dist20 (x : BitVec 9)
  /-- `DIST_21`. Distance symbol 21: base 1537, 9 extra bits (R107). -/
  | dist21 (x : BitVec 9)
  /-- `DIST_22`. Distance symbol 22: base 2049, 10 extra bits (R107). -/
  | dist22 (x : BitVec 10)
  /-- `DIST_23`. Distance symbol 23: base 3073, 10 extra bits (R107). -/
  | dist23 (x : BitVec 10)
  /-- `DIST_24`. Distance symbol 24: base 4097, 11 extra bits (R107). -/
  | dist24 (x : BitVec 11)
  /-- `DIST_25`. Distance symbol 25: base 6145, 11 extra bits (R107). -/
  | dist25 (x : BitVec 11)
  /-- `DIST_26`. Distance symbol 26: base 8193, 12 extra bits (R107). -/
  | dist26 (x : BitVec 12)
  /-- `DIST_27`. Distance symbol 27: base 12289, 12 extra bits (R107). -/
  | dist27 (x : BitVec 12)
  /-- `DIST_28`. Distance symbol 28: base 16385, 13 extra bits (R107). -/
  | dist28 (x : BitVec 13)
  /-- `DIST_29`. Distance symbol 29: base 24577, 13 extra bits (R107). -/
  | dist29 (x : BitVec 13)
  /-- `DIST_30`. Distance symbol 30 denotes nothing (R107, R284). -/
  | dist30
  /-- `DIST_31`. Distance symbol 31 denotes nothing (R107, R284). -/
  | dist31
  /-- `DYN_HDR`. `HLIT`, `HDIST`, `HCLEN` of a dynamic block (R108, R276). -/
  | dynHdr (hlit : BitVec 5) (hdist : BitVec 5) (hclen : BitVec 4)
  /-- `DYN_CL_LEN`. One 3-bit code-length-code length (R108, R277). -/
  | dynClLen (v : BitVec 3)
  /-- `CL_0`. Code-length symbol 0; `n` is its codeword's length (R109, R278). -/
  | cl0 (n : BitVec 4)
  /-- `CL_1`. Code-length symbol 1; `n` is its codeword's length (R109, R278). -/
  | cl1 (n : BitVec 4)
  /-- `CL_2`. Code-length symbol 2; `n` is its codeword's length (R109, R278). -/
  | cl2 (n : BitVec 4)
  /-- `CL_3`. Code-length symbol 3; `n` is its codeword's length (R109, R278). -/
  | cl3 (n : BitVec 4)
  /-- `CL_4`. Code-length symbol 4; `n` is its codeword's length (R109, R278). -/
  | cl4 (n : BitVec 4)
  /-- `CL_5`. Code-length symbol 5; `n` is its codeword's length (R109, R278). -/
  | cl5 (n : BitVec 4)
  /-- `CL_6`. Code-length symbol 6; `n` is its codeword's length (R109, R278). -/
  | cl6 (n : BitVec 4)
  /-- `CL_7`. Code-length symbol 7; `n` is its codeword's length (R109, R278). -/
  | cl7 (n : BitVec 4)
  /-- `CL_8`. Code-length symbol 8; `n` is its codeword's length (R109, R278). -/
  | cl8 (n : BitVec 4)
  /-- `CL_9`. Code-length symbol 9; `n` is its codeword's length (R109, R278). -/
  | cl9 (n : BitVec 4)
  /-- `CL_10`. Code-length symbol 10; `n` is its codeword's length (R109, R278). -/
  | cl10 (n : BitVec 4)
  /-- `CL_11`. Code-length symbol 11; `n` is its codeword's length (R109, R278). -/
  | cl11 (n : BitVec 4)
  /-- `CL_12`. Code-length symbol 12; `n` is its codeword's length (R109, R278). -/
  | cl12 (n : BitVec 4)
  /-- `CL_13`. Code-length symbol 13; `n` is its codeword's length (R109, R278). -/
  | cl13 (n : BitVec 4)
  /-- `CL_14`. Code-length symbol 14; `n` is its codeword's length (R109, R278). -/
  | cl14 (n : BitVec 4)
  /-- `CL_15`. Code-length symbol 15; `n` is its codeword's length (R109, R278). -/
  | cl15 (n : BitVec 4)
  /-- `CL_16`. Code-length symbol 16; `n` is its codeword's length (R109, R278). -/
  | cl16 (n : BitVec 4) (x : BitVec 2)
  /-- `CL_17`. Code-length symbol 17; `n` is its codeword's length (R109, R278). -/
  | cl17 (n : BitVec 4) (x : BitVec 3)
  /-- `CL_18`. Code-length symbol 18; `n` is its codeword's length (R109, R278). -/
  | cl18 (n : BitVec 4) (x : BitVec 7)
  /-- `ZLIB_HDR`. The zlib header bytes `CMF`, `FLG` (R331, R335). -/
  | zlibHdr (cmf : BitVec 8) (flg : BitVec 8)
  /-- `ZLIB_ADLER`. The big-endian Adler-32 trailer (R333). -/
  | zlibAdler (t : BitVec 32)
deriving DecidableEq, Repr

end Sys2Proof
end

