-- ==== Sys2Proof/Machine/Tables.lean ====
section
/-! DEFINITION. The constants of the hardware (spec/10_state.md R21): the parameters of
spec/00_scope.md R8 and R9 and the DEFLATE tables of spec/30_encoding.md R104 to R109. -/

namespace Sys2Proof

/-- Input bytes per block (R9, R303). -/
def chunkBytes : Nat := 32768

/-- The level that −1 stands for (R9, R24). -/
def defaultLevel : Nat := 6

/-- `CHAIN[level]`, the candidates examined at levels 1 to 9 (R9, R214). -/
def chainDepth (level : Nat) : Nat :=
  [0, 4, 8, 16, 32, 64, 128, 256, 1024, 4096].getD level 0

/-- The shortest match used under `filtered` (R9, R213). -/
def filteredMinLen : Nat := 6

/-- The largest bit count of one bit read or write (R9). -/
def bitsMax : Nat := 32

/-- `NSYM`: the symbols of an alphabet that have a frequency (R160). -/
def Alphabet.nsym : Alphabet → Nat
  | .ll => 286
  | .d => 30
  | .cl => 19

/-- `NLEN`: the entries of `LEN_a` and `CODE_a` (R160). -/
def Alphabet.nlen : Alphabet → Nat
  | .ll => 288
  | .d => 32
  | .cl => 19

/-- `MAXBITS`: the longest codeword of an alphabet (R160). -/
def Alphabet.maxBits : Alphabet → Nat
  | .ll => 15
  | .d => 15
  | .cl => 7

/-- The space id of `DTBL_a` (R61), which names its free values. -/
def Alphabet.dtblSpace : Alphabet → Nat
  | .ll => 13
  | .d => 14
  | .cl => 15

/-- `FIXLL[0..287]` (R104). -/
def fixedLenLL : List Nat :=
  List.replicate 144 8 ++ List.replicate 112 9 ++ List.replicate 24 7 ++ List.replicate 8 8

/-- `FIXD[0..31]` (R104). -/
def fixedLenD : List Nat := List.replicate 32 5

/-- `LBASE`, indexed by `sym − 257` (R106). -/
def lengthBases : List Nat :=
  [3, 4, 5, 6, 7, 8, 9, 10, 11, 13, 15, 17, 19, 23, 27, 31, 35, 43, 51, 59, 67, 83, 99, 115, 131,
   163, 195, 227, 258]

/-- `LEXT`, indexed by `sym − 257` (R106). -/
def lengthExtras : List Nat :=
  [0, 0, 0, 0, 0, 0, 0, 0, 1, 1, 1, 1, 2, 2, 2, 2, 3, 3, 3, 3, 4, 4, 4, 4, 5, 5, 5, 5, 0]

/-- `DBASE` (R107). -/
def distBases : List Nat :=
  [1, 2, 3, 4, 5, 7, 9, 13, 17, 25, 33, 49, 65, 97, 129, 193, 257, 385, 513, 769, 1025, 1537, 2049,
   3073, 4097, 6145, 8193, 12289, 16385, 24577]

/-- `DEXT` (R107). -/
def distExtras : List Nat :=
  [0, 0, 0, 0, 1, 1, 2, 2, 3, 3, 4, 4, 5, 5, 6, 6, 7, 7, 8, 8, 9, 9, 10, 10, 11, 11, 12, 12, 13, 13]

/-- `LBASE[k]` (R106). -/
def lengthBase (k : Nat) : Nat := lengthBases.getD k 0

/-- `LEXT[k]` (R106). -/
def lengthExtra (k : Nat) : Nat := lengthExtras.getD k 0

/-- `DBASE[d]` (R107). -/
def distBase (d : Nat) : Nat := distBases.getD d 0

/-- `DEXT[d]` (R107). -/
def distExtra (d : Nat) : Nat := distExtras.getD d 0

/-- `CLORD`: the order in which the code-length-code lengths are sent (R109). -/
def clOrder : List Nat := [16, 17, 18, 0, 8, 7, 9, 6, 10, 5, 11, 4, 12, 3, 13, 2, 14, 1, 15]

/-- The extra bits of a code-length symbol (R109). -/
def clExtra (s : Nat) : Nat := if s = 16 then 2 else if s = 17 then 3 else if s = 18 then 7 else 0

end Sys2Proof
end

