-- ==== Sys2Proof/Machine/Codes.lean ====
section
/-! DEFINITION. Canonical Huffman codes as functions of code lengths: the codewords
(spec/41_huffman_encoder.md R170), the Kraft sum (R14), the decoder's acceptance test
(spec/42_huffman_decoder.md R192), the decode table and its lookup (R191, R193). -/

namespace Sys2Proof

/-- `Σ 2^(MAXBITS − len)` over the used symbols (R14, R170, R192). -/
def kraftSum (maxBits : Nat) (lens : List Nat) : Nat :=
  ((lens.filter (0 < ·)).map fun n => 2 ^ (maxBits - n)).sum

/-- `count[0 .. MAXBITS−1]` of R170, with `count[0]` set to 0. -/
def lengthCounts (maxBits : Nat) (lens : List Nat) : List Nat :=
  (List.range maxBits).map fun b => if b = 0 then 0 else lens.count b

/-- The loop of R170 that fills `next`: `code <- (code + count[b−1]) << 1` for each `b`. -/
def firstCodes (code : Nat) : List Nat → List Nat
  | [] => []
  | c :: cs => 2 * (code + c) :: firstCodes (2 * (code + c)) cs

/-- The last loop of R170: each used symbol, in increasing order, takes the next code of its length. -/
def assignCodes (next : List Nat) : List Nat → List Nat
  | [] => []
  | n :: ls =>
    if n = 0 then 0 :: assignCodes next ls
    else next.getD n 0 :: assignCodes (next.set n (next.getD n 0 + 1)) ls

/-- The canonical codewords of a list of code lengths (R170, R171). -/
def canonicalCodes (maxBits : Nat) (lens : List Nat) : List Nat :=
  assignCodes (0 :: firstCodes 0 (lengthCounts maxBits lens)) lens

/-- `CheckCode(a)` (R192): complete codes, and for the distance alphabet the empty code and the one
codeword of one bit. -/
def codeAccepted (a : Alphabet) (lens : List Nat) : Bool :=
  let k := kraftSum a.maxBits lens
  let used := lens.filter (0 < ·)
  k == 2 ^ a.maxBits ||
    (k < 2 ^ a.maxBits && a == .d && (used == [] || used == [1]))

/-- One row per used symbol: its reversed codeword, its length and itself (R191). -/
def decodeRows : Nat → List Nat → List Nat → List DecRow
  | _, [], _ => []
  | _, _ :: _, [] => []
  | s, n :: ls, c :: cs =>
    if n = 0 then decodeRows (s + 1) ls cs
    else ⟨revBits n c, n, s⟩ :: decodeRows (s + 1) ls cs

/-- The table that `BuildDecoder(a)` leaves for accepted lengths (R191). -/
def builtTable (a : Alphabet) (lens : List Nat) : DecTable :=
  .built (decodeRows 0 lens (canonicalCodes a.maxBits lens))

/-- The decode tables of the fixed code (R104, R275). -/
def fixedTable : Alphabet → DecTable
  | .ll => builtTable .ll fixedLenLL
  | .d => builtTable .d fixedLenD
  | .cl => .built []

/-- The entry `(sym, len)` of a row list at an index; `(0, 0)` where no codeword matches (R34, R193). -/
def rowEntry (rows : List DecRow) (index : Nat) : Nat × Nat :=
  match rows.find? fun r => index % 2 ^ r.len == r.pattern with
  | some r => (r.sym, r.len)
  | none => (0, 0)

/-- `DTBL_a[index]` as `(sym, len)` (R34); an unspecified table holds free 13-bit entries (U3). -/
def DecTable.entry (a : Alphabet) (t : DecTable) (index : Nat) : Nat × Nat :=
  match t with
  | .built rows => rowEntry rows index
  | .unspecified tag =>
    let w := (Config.freeWord a.dtblSpace tag index).toNat
    (w / 16 % 512, w % 16)

/-- The stored form of an entry: bits 12:4 `sym`, bits 3:0 `len` (R34). -/
def entryWord (e : Nat × Nat) : Nat := e.1 * 16 + e.2

/-- The reversed codeword of a symbol whose length is `n`, if the table has it. -/
def DecTable.pattern (t : DecTable) (sym n : Nat) : Option Nat :=
  match t with
  | .built rows => (rows.find? fun r => r.sym == sym && r.len == n).map (·.pattern)
  | .unspecified _ => none

end Sys2Proof
end

