-- ==== Sys2Proof/WellFormed.lean ====
section
/-! DEFINITION. Which terms of `Instr` stand for something the encodings of spec/30_encoding.md can
spell: field ranges that the operand types alone do not say. -/

namespace Sys2Proof

/-- The opcodes of R91, in its order. -/
def listedOpcodes : List (BitVec 8) :=
  [0x01, 0x02, 0x10, 0x11, 0x12, 0x13, 0x14, 0x20, 0x21, 0x22, 0x28, 0x29, 0x30, 0x31, 0x40, 0x48,
   0x50]

/-- A codeword length the alphabet admits: 1 .. `MAXBITS` (R160). -/
def codeLenOk (maxBits : Nat) (n : BitVec 4) : Bool := 1 ≤ n.toNat && n.toNat ≤ maxBits

/-- The ranges of R93, R101 to R109 that `Instr`'s operand types leave open. -/
def Instr.wellFormed : Instr → Bool
  | .reservedCmd op => !listedOpcodes.contains op
  | .storedData payload => payload.length ≤ 65535
  | .fixedLit0To143 sym => sym.toNat ≤ 143
  | .fixedLit144To255 sym => 144 ≤ sym.toNat
  | .fixedLen257To279 sym => 257 ≤ sym.toNat && sym.toNat ≤ 279
  | .fixedLen280To285 sym => 280 ≤ sym.toNat && sym.toNat ≤ 285
  | .fixedLL286To287 sym => sym.toNat == 286 || sym.toNat == 287
  | .dynLit _ n => codeLenOk 15 n
  | .dynEob n => codeLenOk 15 n
  | .dynLen sym n => 257 ≤ sym.toNat && sym.toNat ≤ 285 && codeLenOk 15 n
  | .dynDist d n => d.toNat ≤ 29 && codeLenOk 15 n
  | .cl0 n => codeLenOk 7 n
  | .cl1 n => codeLenOk 7 n
  | .cl2 n => codeLenOk 7 n
  | .cl3 n => codeLenOk 7 n
  | .cl4 n => codeLenOk 7 n
  | .cl5 n => codeLenOk 7 n
  | .cl6 n => codeLenOk 7 n
  | .cl7 n => codeLenOk 7 n
  | .cl8 n => codeLenOk 7 n
  | .cl9 n => codeLenOk 7 n
  | .cl10 n => codeLenOk 7 n
  | .cl11 n => codeLenOk 7 n
  | .cl12 n => codeLenOk 7 n
  | .cl13 n => codeLenOk 7 n
  | .cl14 n => codeLenOk 7 n
  | .cl15 n => codeLenOk 7 n
  | .cl16 n _ => codeLenOk 7 n
  | .cl17 n _ => codeLenOk 7 n
  | .cl18 n _ => codeLenOk 7 n
  | .compress | .decompress | .bitinit | .wrbits | .rdbits | .alignw | .alignr | .hbuild
  | .hcanon | .hput | .hdbuild | .hdsym | .mfind | .tokenize | .encblk | .decblk | .adler32
  | .zcompress | .zdecompress | .rawcompress | .rawdecompress | .blockStored _ | .blockFixed _
  | .blockDynamic _ | .blockReserved _ | .storedLen _ _ | .fixedEob | .fixedDist _ | .len257
  | .len258 | .len259 | .len260 | .len261 | .len262 | .len263 | .len264 | .len265 _ | .len266 _
  | .len267 _ | .len268 _ | .len269 _ | .len270 _ | .len271 _ | .len272 _ | .len273 _
  | .len274 _ | .len275 _ | .len276 _ | .len277 _ | .len278 _ | .len279 _ | .len280 _
  | .len281 _ | .len282 _ | .len283 _ | .len284 _ | .len285 | .dist0 | .dist1 | .dist2 | .dist3
  | .dist4 _ | .dist5 _ | .dist6 _ | .dist7 _ | .dist8 _ | .dist9 _ | .dist10 _ | .dist11 _
  | .dist12 _ | .dist13 _ | .dist14 _ | .dist15 _ | .dist16 _ | .dist17 _ | .dist18 _
  | .dist19 _ | .dist20 _ | .dist21 _ | .dist22 _ | .dist23 _ | .dist24 _ | .dist25 _
  | .dist26 _ | .dist27 _ | .dist28 _ | .dist29 _ | .dist30 | .dist31 | .dynHdr _ _ _
  | .dynClLen _ | .zlibHdr _ _ | .zlibAdler _ => true

end Sys2Proof
end

