-- ==== Sys2Proof/Decode.lean ====
section
/-! DEFINITION. The two decoders and the encoder (spec/30_encoding.md). The command decoder reads host
transactions (R90 to R95); the stream decoder reads the element at `RPOS` in the decode mode of R112
(R100 to R113). Both are total; the stream decoder rejects by the error the spec names. The encoder
writes the same words back. Each constructor's decoding of a word written out from the spec stands in
Sys2Proof/Tests/Slice0.lean. -/

namespace Sys2Proof

/-! ### Commands -/

/-- The command an opcode stands for (R91); every other value is reserved (R93). -/
def decodeOpcode (op : BitVec 8) : Instr :=
  if op = 0x01 then .compress
  else if op = 0x02 then .decompress
  else if op = 0x10 then .bitinit
  else if op = 0x11 then .wrbits
  else if op = 0x12 then .rdbits
  else if op = 0x13 then .alignw
  else if op = 0x14 then .alignr
  else if op = 0x20 then .hbuild
  else if op = 0x21 then .hcanon
  else if op = 0x22 then .hput
  else if op = 0x28 then .hdbuild
  else if op = 0x29 then .hdsym
  else if op = 0x30 then .mfind
  else if op = 0x31 then .tokenize
  else if op = 0x40 then .encblk
  else if op = 0x48 then .decblk
  else if op = 0x50 then .adler32
  else .reservedCmd op

/-- The opcode of a command (R91, R93). -/
def Instr.opcode : Instr → Option (BitVec 8)
  | .compress => some 0x01
  | .decompress => some 0x02
  | .bitinit => some 0x10
  | .wrbits => some 0x11
  | .rdbits => some 0x12
  | .alignw => some 0x13
  | .alignr => some 0x14
  | .hbuild => some 0x20
  | .hcanon => some 0x21
  | .hput => some 0x22
  | .hdbuild => some 0x28
  | .hdsym => some 0x29
  | .mfind => some 0x30
  | .tokenize => some 0x31
  | .encblk => some 0x40
  | .decblk => some 0x48
  | .adler32 => some 0x50
  | .reservedCmd op => some op
  | _ => none

/-- The instruction that a host's pending transactions begin with, and what is left (R90, R94): a write
of `CMD` is its command (bits 31:8 ignored), and `SET CFG_FRAMING, 0|1` directly before a write of
`COMPRESS` or `DECOMPRESS` is the pseudo-command of R95 (assumption log 9). -/
def decodeHost : List HostTxn → Option (Instr × List HostTxn)
  | .write 0 0 v :: rest => some (decodeOpcode (BitVec.ofNat 8 v), rest)
  | .write 0 6 f :: .write 0 0 v :: rest =>
    if f = 1 ∧ v % 256 = 1 then some (.zcompress, rest)
    else if f = 1 ∧ v % 256 = 2 then some (.zdecompress, rest)
    else if f = 0 ∧ v % 256 = 1 then some (.rawcompress, rest)
    else if f = 0 ∧ v % 256 = 2 then some (.rawdecompress, rest)
    else none
  | _ => none

/-- The host transactions that spell a command or pseudo-command (R94, R95). -/
def encodeHost (i : Instr) : Option (List HostTxn) :=
  match i with
  | .zcompress => some [.write 0 6 1, .write 0 0 1]
  | .zdecompress => some [.write 0 6 1, .write 0 0 2]
  | .rawcompress => some [.write 0 6 0, .write 0 0 1]
  | .rawdecompress => some [.write 0 6 0, .write 0 0 2]
  | i => i.opcode.map fun op => [.write 0 0 op.toNat]

/-! ### Stream elements -/

/-- What the reading of a stream element depends on besides the bits (R112): the decode mode, the
read cursor's offset in its byte, and the current decode tables. -/
structure StreamCtx where
  phase : Phase
  off : Nat
  ll : DecTable
  d : DecTable
  cl : DecTable
deriving DecidableEq, Repr

/-- Why the stream decoder yields no element: it raises an error (R111, R143, R196), or the machine is
in no decode mode, which no step asks for. -/
inductive DecodeReject where
  | raises (e : HwError)
  | notDecoding
deriving DecidableEq, Repr

/-- Stream bit `i` from `RPOS`, 0 past the end of the input (R144). -/
def peekBit (bit : Nat → Bool) (rem i : Nat) : Bool := decide (i < rem) && bit i

/-- `DecodeSym(a)` (R196) with the cursor move left to the caller: the table entry at the next
`MAXBITS` bits, refused when it marks no codeword, then when the input is too short. -/
def decodeSym (a : Alphabet) (t : DecTable) (bit : Nat → Bool) (rem : Nat) :
    Except DecodeReject (Nat × Nat) :=
  let e := t.entry a (fieldAt (peekBit bit rem) 0 a.maxBits)
  if e.2 = 0 then .error (.raises .invalidHuffmanCode)
  else if rem < e.2 then .error (.raises .truncatedInput)
  else .ok e

/-- `ReadBits(n)` with the value handed to a constructor; `TruncatedInput` when the bits are not there
(R143). `skip` bits are passed over first without being looked at (R146). -/
def readElem (bit : Nat → Bool) (rem skip n : Nat) (mk : Nat → Instr) :
    Except DecodeReject (Instr × Nat) :=
  if rem < skip + n then .error (.raises .truncatedInput)
  else .ok (mk (fieldAt bit skip n), skip + n)

/-- The bits `AlignR` skips from an offset in a byte (R146). -/
def alignPad (off : Nat) : Nat := (8 - off % 8) % 8

/-- The element of a length symbol `257 + k` with its extra bits (R106). -/
def lengthElem (k x : Nat) : Option Instr :=
  [.len257, .len258, .len259, .len260, .len261, .len262, .len263, .len264,
   (.len265 (BitVec.ofNat 1 x)), (.len266 (BitVec.ofNat 1 x)), (.len267 (BitVec.ofNat 1 x)),
   (.len268 (BitVec.ofNat 1 x)), (.len269 (BitVec.ofNat 2 x)), (.len270 (BitVec.ofNat 2 x)),
   (.len271 (BitVec.ofNat 2 x)), (.len272 (BitVec.ofNat 2 x)), (.len273 (BitVec.ofNat 3 x)),
   (.len274 (BitVec.ofNat 3 x)), (.len275 (BitVec.ofNat 3 x)), (.len276 (BitVec.ofNat 3 x)),
   (.len277 (BitVec.ofNat 4 x)), (.len278 (BitVec.ofNat 4 x)), (.len279 (BitVec.ofNat 4 x)),
   (.len280 (BitVec.ofNat 4 x)), (.len281 (BitVec.ofNat 5 x)), (.len282 (BitVec.ofNat 5 x)),
   (.len283 (BitVec.ofNat 5 x)), (.len284 (BitVec.ofNat 5 x)), .len285][k]?

/-- The element of a distance symbol `d` with its extra bits (R107). -/
def distElem (d x : Nat) : Option Instr :=
  [.dist0, .dist1, .dist2, .dist3, .dist4 (BitVec.ofNat 1 x), .dist5 (BitVec.ofNat 1 x),
   .dist6 (BitVec.ofNat 2 x), .dist7 (BitVec.ofNat 2 x), .dist8 (BitVec.ofNat 3 x),
   .dist9 (BitVec.ofNat 3 x), .dist10 (BitVec.ofNat 4 x), .dist11 (BitVec.ofNat 4 x),
   .dist12 (BitVec.ofNat 5 x), .dist13 (BitVec.ofNat 5 x), .dist14 (BitVec.ofNat 6 x),
   .dist15 (BitVec.ofNat 6 x), .dist16 (BitVec.ofNat 7 x), .dist17 (BitVec.ofNat 7 x),
   .dist18 (BitVec.ofNat 8 x), .dist19 (BitVec.ofNat 8 x), .dist20 (BitVec.ofNat 9 x),
   .dist21 (BitVec.ofNat 9 x), .dist22 (BitVec.ofNat 10 x), .dist23 (BitVec.ofNat 10 x),
   .dist24 (BitVec.ofNat 11 x), .dist25 (BitVec.ofNat 11 x), .dist26 (BitVec.ofNat 12 x),
   .dist27 (BitVec.ofNat 12 x), .dist28 (BitVec.ofNat 13 x), .dist29 (BitVec.ofNat 13 x),
   .dist30, .dist31][d]?

/-- The element of a code-length symbol `s` of codeword length `n` with its extra bits (R109). -/
def clElem (s n x : Nat) : Option Instr :=
  [.cl0 (BitVec.ofNat 4 n), .cl1 (BitVec.ofNat 4 n), .cl2 (BitVec.ofNat 4 n),
   .cl3 (BitVec.ofNat 4 n), .cl4 (BitVec.ofNat 4 n), .cl5 (BitVec.ofNat 4 n),
   .cl6 (BitVec.ofNat 4 n), .cl7 (BitVec.ofNat 4 n), .cl8 (BitVec.ofNat 4 n),
   .cl9 (BitVec.ofNat 4 n), .cl10 (BitVec.ofNat 4 n), .cl11 (BitVec.ofNat 4 n),
   .cl12 (BitVec.ofNat 4 n), .cl13 (BitVec.ofNat 4 n), .cl14 (BitVec.ofNat 4 n),
   .cl15 (BitVec.ofNat 4 n), .cl16 (BitVec.ofNat 4 n) (BitVec.ofNat 2 x),
   .cl17 (BitVec.ofNat 4 n) (BitVec.ofNat 3 x), .cl18 (BitVec.ofNat 4 n) (BitVec.ofNat 7 x)][s]?

/-- The element a literal/length symbol of the fixed code begins (R103, R105). -/
def fixedElem (s : Nat) : Option Instr :=
  if s ≤ 143 then some (.fixedLit0To143 (BitVec.ofNat 8 s))
  else if s ≤ 255 then some (.fixedLit144To255 (BitVec.ofNat 8 s))
  else if s = 256 then some .fixedEob
  else if s ≤ 279 then some (.fixedLen257To279 (BitVec.ofNat 9 s))
  else if s ≤ 285 then some (.fixedLen280To285 (BitVec.ofNat 9 s))
  else if s ≤ 287 then some (.fixedLL286To287 (BitVec.ofNat 9 s))
  else none

/-- The element a literal/length symbol of a transmitted code begins (R103); 286 and above are refused
(R280, R283). -/
def dynElem (s n : Nat) : Option Instr :=
  if s ≤ 255 then some (.dynLit (BitVec.ofNat 8 s) (BitVec.ofNat 4 n))
  else if s = 256 then some (.dynEob (BitVec.ofNat 4 n))
  else if s ≤ 285 then some (.dynLen (BitVec.ofNat 9 s) (BitVec.ofNat 4 n))
  else none

/-- An element, or `InvalidHuffmanCode` for a symbol that stands for none (R111). -/
def elemOr (i : Option Instr) (n : Nat) : Except DecodeReject (Instr × Nat) :=
  match i with
  | some i => .ok (i, n)
  | none => .error (.raises .invalidHuffmanCode)

/-- The code-length element at the cursor (R278): the codeword, then its extra bits. Symbol 16 with
nothing to repeat is refused before its extra bits are read. -/
def decodeClElem (t : DecTable) (seq : List Nat) (bit : Nat → Bool) (rem : Nat) :
    Except DecodeReject (Instr × Nat) :=
  match decodeSym .cl t bit rem with
  | .error e => .error e
  | .ok (s, n) =>
    if s = 16 ∧ seq = [] then .error (.raises .invalidHuffmanCode)
    else if rem < n + clExtra s then .error (.raises .truncatedInput)
    else elemOr (clElem s n (fieldAt bit n (clExtra s))) (n + clExtra s)

/-- The stream element at the cursor and its length in bits (R100, R112). `bit i` is stream bit
`RPOS + i` and `rem` the number of bits left (R143). -/
def decodeElem (c : StreamCtx) (bit : Nat → Bool) (rem : Nat) :
    Except DecodeReject (Instr × Nat) :=
  match c.phase with
  | .idle => .error .notDecoding
  | .zlibHdr =>
    readElem bit rem 0 16 fun v => .zlibHdr (BitVec.ofNat 8 v) (BitVec.ofNat 8 (v / 256))
  | .blockHdr =>
    readElem bit rem 0 3 fun v =>
      [.blockStored (v.testBit 0), .blockFixed (v.testBit 0), .blockDynamic (v.testBit 0),
        .blockReserved (v.testBit 0)].getD (v / 2) (.blockReserved (v.testBit 0))
  | .storedLen =>
    readElem bit rem (alignPad c.off) 32 fun v =>
      .storedLen (BitVec.ofNat 16 v) (BitVec.ofNat 16 (v / 65536))
  | .storedData len =>
    if rem < 8 * len then .error (.raises .truncatedInput)
    else .ok (.storedData ((List.range len).map fun k => BitVec.ofNat 8 (fieldAt bit (8 * k) 8)),
      8 * len)
  | .dynHdr =>
    readElem bit rem 0 14 fun v =>
      .dynHdr (BitVec.ofNat 5 v) (BitVec.ofNat 5 (v / 32)) (BitVec.ofNat 4 (v / 1024))
  | .dynClLen _ _ _ _ => readElem bit rem 0 3 fun v => .dynClLen (BitVec.ofNat 3 v)
  | .dynLens _ _ seq => decodeClElem c.cl seq bit rem
  | .data .fixed =>
    match decodeSym .ll c.ll bit rem with
    | .error e => .error e
    | .ok (s, n) => elemOr (fixedElem s) n
  | .data .dynamic =>
    match decodeSym .ll c.ll bit rem with
    | .error e => .error e
    | .ok (s, n) => elemOr (dynElem s n) n
  | .lenExtra _ sym =>
    let x := lengthExtra (sym - 257)
    if rem < x then .error (.raises .truncatedInput)
    else elemOr (if 257 ≤ sym then lengthElem (sym - 257) (fieldAt bit 0 x) else none) x
  | .distCode .fixed _ =>
    match decodeSym .d c.d bit rem with
    | .error e => .error e
    | .ok (s, n) => elemOr (if s ≤ 31 then some (.fixedDist (BitVec.ofNat 5 s)) else none) n
  | .distCode .dynamic _ =>
    match decodeSym .d c.d bit rem with
    | .error e => .error e
    | .ok (s, n) =>
      elemOr (if s ≤ 29 then some (.dynDist (BitVec.ofNat 5 s) (BitVec.ofNat 4 n)) else none) n
  | .distExtra _ _ dsym =>
    let x := distExtra dsym
    if rem < x then .error (.raises .truncatedInput)
    else elemOr (distElem dsym (fieldAt bit 0 x)) x
  | .zlibAdler =>
    readElem bit rem 0 32 fun v =>
      .zlibAdler (BitVec.ofNat 8 v ++ BitVec.ofNat 8 (v / 256) ++ BitVec.ofNat 8 (v / 65536) ++
        BitVec.ofNat 8 (v / 16777216))

/-! ### The encoder -/

/-- A codeword of `n` bits in stream order, most significant code bit first (R64). -/
def codeword (code n : Nat) : List Bool := (bitsOf code n).reverse

/-- The codeword of a symbol in a decode table, in stream order (R193). -/
def tableWord (t : DecTable) (sym n : Nat) : Option (List Bool) :=
  (t.pattern sym n).map fun p => bitsOf p n

/-- The symbol index and extra value of a length-symbol element (R106). -/
def Instr.lengthFields : Instr → Option (Nat × Nat)
  | .len257 => some (0, 0)
  | .len258 => some (1, 0)
  | .len259 => some (2, 0)
  | .len260 => some (3, 0)
  | .len261 => some (4, 0)
  | .len262 => some (5, 0)
  | .len263 => some (6, 0)
  | .len264 => some (7, 0)
  | .len265 x => some (8, x.toNat)
  | .len266 x => some (9, x.toNat)
  | .len267 x => some (10, x.toNat)
  | .len268 x => some (11, x.toNat)
  | .len269 x => some (12, x.toNat)
  | .len270 x => some (13, x.toNat)
  | .len271 x => some (14, x.toNat)
  | .len272 x => some (15, x.toNat)
  | .len273 x => some (16, x.toNat)
  | .len274 x => some (17, x.toNat)
  | .len275 x => some (18, x.toNat)
  | .len276 x => some (19, x.toNat)
  | .len277 x => some (20, x.toNat)
  | .len278 x => some (21, x.toNat)
  | .len279 x => some (22, x.toNat)
  | .len280 x => some (23, x.toNat)
  | .len281 x => some (24, x.toNat)
  | .len282 x => some (25, x.toNat)
  | .len283 x => some (26, x.toNat)
  | .len284 x => some (27, x.toNat)
  | .len285 => some (28, 0)
  | _ => none

/-- The symbol and extra value of a distance-symbol element (R107). -/
def Instr.distFields : Instr → Option (Nat × Nat)
  | .dist0 => some (0, 0)
  | .dist1 => some (1, 0)
  | .dist2 => some (2, 0)
  | .dist3 => some (3, 0)
  | .dist4 x => some (4, x.toNat)
  | .dist5 x => some (5, x.toNat)
  | .dist6 x => some (6, x.toNat)
  | .dist7 x => some (7, x.toNat)
  | .dist8 x => some (8, x.toNat)
  | .dist9 x => some (9, x.toNat)
  | .dist10 x => some (10, x.toNat)
  | .dist11 x => some (11, x.toNat)
  | .dist12 x => some (12, x.toNat)
  | .dist13 x => some (13, x.toNat)
  | .dist14 x => some (14, x.toNat)
  | .dist15 x => some (15, x.toNat)
  | .dist16 x => some (16, x.toNat)
  | .dist17 x => some (17, x.toNat)
  | .dist18 x => some (18, x.toNat)
  | .dist19 x => some (19, x.toNat)
  | .dist20 x => some (20, x.toNat)
  | .dist21 x => some (21, x.toNat)
  | .dist22 x => some (22, x.toNat)
  | .dist23 x => some (23, x.toNat)
  | .dist24 x => some (24, x.toNat)
  | .dist25 x => some (25, x.toNat)
  | .dist26 x => some (26, x.toNat)
  | .dist27 x => some (27, x.toNat)
  | .dist28 x => some (28, x.toNat)
  | .dist29 x => some (29, x.toNat)
  | .dist30 => some (30, 0)
  | .dist31 => some (31, 0)
  | _ => none

/-- The symbol, codeword length and extra value of a code-length element (R109). -/
def Instr.clFields : Instr → Option (Nat × Nat × Nat)
  | .cl0 n => some (0, n.toNat, 0)
  | .cl1 n => some (1, n.toNat, 0)
  | .cl2 n => some (2, n.toNat, 0)
  | .cl3 n => some (3, n.toNat, 0)
  | .cl4 n => some (4, n.toNat, 0)
  | .cl5 n => some (5, n.toNat, 0)
  | .cl6 n => some (6, n.toNat, 0)
  | .cl7 n => some (7, n.toNat, 0)
  | .cl8 n => some (8, n.toNat, 0)
  | .cl9 n => some (9, n.toNat, 0)
  | .cl10 n => some (10, n.toNat, 0)
  | .cl11 n => some (11, n.toNat, 0)
  | .cl12 n => some (12, n.toNat, 0)
  | .cl13 n => some (13, n.toNat, 0)
  | .cl14 n => some (14, n.toNat, 0)
  | .cl15 n => some (15, n.toNat, 0)
  | .cl16 n x => some (16, n.toNat, x.toNat)
  | .cl17 n x => some (17, n.toNat, x.toNat)
  | .cl18 n x => some (18, n.toNat, x.toNat)
  | _ => none

/-- Whether a decode mode is the element's own (R112). No mode admits a command. -/
def Phase.admits (p : Phase) (i : Instr) : Bool :=
  match p with
  | .idle => false
  | .zlibHdr => match i with | .zlibHdr _ _ => true | _ => false
  | .blockHdr =>
    match i with
    | .blockStored _ | .blockFixed _ | .blockDynamic _ | .blockReserved _ => true
    | _ => false
  | .storedLen => match i with | .storedLen _ _ => true | _ => false
  | .storedData len => match i with | .storedData payload => payload.length == len | _ => false
  | .dynHdr => match i with | .dynHdr _ _ _ => true | _ => false
  | .dynClLen _ _ _ _ => match i with | .dynClLen _ => true | _ => false
  | .dynLens _ _ _ => i.clFields.isSome
  | .data .fixed =>
    match i with
    | .fixedLit0To143 _ | .fixedLit144To255 _ | .fixedEob | .fixedLen257To279 _
    | .fixedLen280To285 _ | .fixedLL286To287 _ => true
    | _ => false
  | .data .dynamic => match i with | .dynLit _ _ | .dynEob _ | .dynLen _ _ => true | _ => false
  | .lenExtra _ sym => match i.lengthFields with | some (k, _) => sym == 257 + k | none => false
  | .distCode .fixed _ => match i with | .fixedDist _ => true | _ => false
  | .distCode .dynamic _ => match i with | .dynDist _ _ => true | _ => false
  | .distExtra _ _ dsym => match i.distFields with | some (k, _) => k == dsym | none => false
  | .zlibAdler => match i with | .zlibAdler _ => true | _ => false

/-- The bits of a length-, distance- or code-length-symbol element (R106, R107, R109). -/
def encodeSymbol (c : StreamCtx) (i : Instr) : Option (List Bool) :=
  match i.lengthFields with
  | some (k, x) => some (bitsOf x (lengthExtra k))
  | none =>
    match i.distFields with
    | some (k, x) => some (bitsOf x (distExtra k))
    | none =>
      match i.clFields with
      | some (k, n, x) => (tableWord c.cl k n).map (· ++ bitsOf x (clExtra k))
      | none => none

/-- The bits of a stream element, in stream order (R101 to R110). Commands have none. -/
def encodeElem (c : StreamCtx) (i : Instr) : Option (List Bool) :=
  match i with
  | .blockStored f => some [f, false, false]
  | .blockFixed f => some [f, true, false]
  | .blockDynamic f => some [f, false, true]
  | .blockReserved f => some [f, true, true]
  | .storedLen len nlen =>
    some (List.replicate (alignPad c.off) false ++ bitsOf len.toNat 16 ++ bitsOf nlen.toNat 16)
  | .storedData payload => some (payload.flatMap fun b => bitsOf b.toNat 8)
  | .fixedLit0To143 sym => some (codeword (0x30 + sym.toNat) 8)
  | .fixedLit144To255 sym => some (codeword (0x190 + (sym.toNat - 144)) 9)
  | .fixedEob => some (codeword 0 7)
  | .fixedLen257To279 sym => some (codeword (sym.toNat - 256) 7)
  | .fixedLen280To285 sym => some (codeword (0xC0 + (sym.toNat - 280)) 8)
  | .fixedLL286To287 sym => some (codeword (0xC0 + (sym.toNat - 280)) 8)
  | .fixedDist d => some (codeword d.toNat 5)
  | .dynLit sym n => tableWord c.ll sym.toNat n.toNat
  | .dynEob n => tableWord c.ll 256 n.toNat
  | .dynLen sym n => tableWord c.ll sym.toNat n.toNat
  | .dynDist d n => tableWord c.d d.toNat n.toNat
  | .dynHdr hlit hdist hclen =>
    some (bitsOf hlit.toNat 5 ++ bitsOf hdist.toNat 5 ++ bitsOf hclen.toNat 4)
  | .dynClLen v => some (bitsOf v.toNat 3)
  | .zlibHdr cmf flg => some (bitsOf cmf.toNat 8 ++ bitsOf flg.toNat 8)
  | .zlibAdler t =>
    some (bitsOf (t.toNat / 16777216) 8 ++ bitsOf (t.toNat / 65536) 8 ++ bitsOf (t.toNat / 256) 8 ++
      bitsOf t.toNat 8)
  | i => encodeSymbol c i

/-- The words of an instruction: host transactions for a command, stream bits for an element. -/
inductive Code where
  | host (txns : List HostTxn)
  | stream (bits : List Bool)
deriving DecidableEq, Repr

/-- The encoding of an instruction; for an element, in a decode context (R94, R100). -/
def encode (c : StreamCtx) (i : Instr) : Option Code :=
  match encodeHost i with
  | some txns => some (.host txns)
  | none => (encodeElem c i).map .stream

/-! ### Words as the opcode table numbers them -/

/-- Whether a table byte is a block header's: its five upper bits are 0 and no row of format CMD lists
it, so that it is one of the rows of format HDR (assumption log 8). -/
def isHeaderByte (b : BitVec 8) : Bool := b.toNat < 8 && !listedOpcodes.contains b

/-- A context at a block header, with nothing decoded. -/
def headerCtx : StreamCtx := ⟨.blockHdr, 0, .built [], .built [], .built []⟩

/-- The instruction a word of spec/opcode_table.json stands for (assumption log 8): a byte is a listed
opcode, else a 3-bit block header, else a reserved opcode; wider rows carry no bits in the table. -/
def decodeTableWord (nbits w : Nat) : Option Instr :=
  if 8 < nbits then none
  else if isHeaderByte (BitVec.ofNat 8 w) then
    match decodeElem headerCtx (fun i => w.testBit i) 8 with
    | .ok (i, _) => some i
    | .error _ => none
  else some (decodeOpcode (BitVec.ofNat 8 w))

end Sys2Proof
end

