-- ==== Sys2Proof/Machine/Memory.lean ====
section
/-! DEFINITION. One space of spec/20_memory.md R60 as plain data: the elements that something has
written, as (index, value) pairs in one canonical form (indices strictly rising). An element nothing has
written since the contents became unspecified holds no value here and reads as a free value
(spec/93_implementation_defined.md U3, assumption log 3). A space of bytes is a list of `Host.Cell`. -/

namespace Sys2Proof.Machine

/-- A space of `w`-bit elements. `tag` names the occasion at which the unlisted elements became
unspecified. -/
structure Memory (w : Nat) where
  cells : List (Nat × BitVec w)
  tag : Nat
deriving DecidableEq, Repr

/-- The canonical form: indices strictly rising. -/
def Memory.wf {w : Nat} (m : Memory w) : Bool := decide (m.cells.Pairwise fun a b => a.1 < b.1)

/-- Every listed index lies below `n` (the index ranges of R61). -/
def Memory.below {w : Nat} (m : Memory w) (n : Nat) : Bool := m.cells.all fun c => c.1 < n

/-- The value written at an index, if any. -/
def findCell {w : Nat} : List (Nat × BitVec w) → Nat → Option (BitVec w)
  | [], _ => none
  | (a, v) :: t, i => if a = i then some v else findCell t i

/-- Reads element `i` of space `space` (R61, R69): what was written last, else a free value (U3). -/
def Memory.read {w : Nat} (m : Memory w) (space i : Nat) : BitVec w :=
  match findCell m.cells i with
  | some v => v
  | none => (Config.freeWord space m.tag i).setWidth w

/-- `n` consecutive elements from `start`. -/
def Memory.readRun {w : Nat} (m : Memory w) (space start n : Nat) : List (BitVec w) :=
  (List.range n).map fun i => m.read space (start + i)

/-- The cells of consecutive elements from `start`. -/
def runCells {w : Nat} : Nat → List (BitVec w) → List (Nat × BitVec w)
  | _, [] => []
  | start, v :: vs => (start, v) :: runCells (start + 1) vs

/-- Writes consecutive elements from `start` (R69, R70). -/
def Memory.writeRun {w : Nat} (m : Memory w) (start : Nat) (vs : List (BitVec w)) : Memory w :=
  { m with
    cells := (m.cells.filter fun c => c.1 < start) ++ runCells start vs ++
      m.cells.filter fun c => start + vs.length ≤ c.1 }

/-- Writes one element. -/
def Memory.write {w : Nat} (m : Memory w) (i : Nat) (v : BitVec w) : Memory w := m.writeRun i [v]

/-- Unspecified contents (R40, R41, U3). -/
def Memory.unspecified {w : Nat} (tag : Nat) : Memory w := ⟨[], tag⟩

/-- The contents below `n` kept, the rest unspecified (spec/45_block_decoder.md R270). -/
def Memory.keepBelow {w : Nat} (m : Memory w) (n tag : Nat) : Memory w :=
  ⟨m.cells.filter fun c => c.1 < n, tag⟩

end Sys2Proof.Machine
end

