-- ==== Sys2Proof/Machine/State.lean ====
section
/-! DEFINITION. The state of the codec as plain data (spec/10_state.md R20 to R42), the reasons a step
can stop, and the state after reset (R40, spec/70_reset_and_hazards.md R390). -/

namespace Sys2Proof.Machine

/-- `STATUS.STATE` (R22, R25). -/
inductive Status where
  | idle
  | busy
  | done
  | error
deriving DecidableEq, Repr

/-- The running `DECBLK` or `DECOMPRESS` (R270, R310): which of the two, the header of the block being
decoded, and `OLEN` when the command began. The model's own record of where the command's pseudocode
stands (assumption log 1). -/
structure DecodeRun where
  whole : Bool
  bfinal : Bool
  btype : BitVec 2
  base : Nat
deriving DecidableEq, Repr

/-- The whole state. INVENTORY.md lists each field with its rule and reset value. -/
structure State where
  status : Status
  err : Option HwError
  cfgLevel : BitVec 32
  cfgWbits : BitVec 32
  cfgStrategy : BitVec 32
  cfgFraming : BitVec 32
  ilen : Nat
  icons : Nat
  rpos : Nat
  wpos : Nat
  ntok : Nat
  adler : BitVec 32
  arg0 : BitVec 32
  arg1 : BitVec 32
  arg2 : BitVec 32
  arg3 : BitVec 32
  res0 : BitVec 32
  res1 : BitVec 32
  res2 : BitVec 32
  res3 : BitVec 32
  ibuf : Memory 8
  obuf : Memory 8
  freqLL : Memory 32
  freqD : Memory 32
  freqCL : Memory 32
  lenLL : Memory 4
  lenD : Memory 4
  lenCL : Memory 3
  codeLL : Memory 15
  codeD : Memory 15
  codeCL : Memory 7
  tok : Memory 32
  dtblLL : DecTable
  dtblD : DecTable
  dtblCL : DecTable
  phase : Phase
  run : DecodeRun
  fresh : Nat
  host : List HostTxn
  hostData : Nat
deriving DecidableEq, Repr

/-- Why a step stops without a next state. The codec's eight errors are no faults: they are next states
(R352). -/
inductive Fault where
  /-- Raised by the meaning of a stream element when the decode mode of R112 is not the element's own:
  the bits of R100 are then no such element. `step` never raises it, since it runs only elements decoded
  in the current mode. Safe: the model stops where the spec has no behaviour. -/
  | elementOutOfMode
  /-- Raised by `DECBLK` and `DECOMPRESS` when their element count (R288(c), R316) runs out before the
  command ends. The count is an upper bound, so it is never raised. Safe: the model would only stop. -/
  | decoderOutOfFuel
deriving DecidableEq, Repr

/-- Why a step has no meaning. All but the first are the refused host accesses of R42
(spec/93_implementation_defined.md U1: "refuse"); each is safe, since the spec gives the access no
effect. -/
inductive Refusal where
  /-- Raised only by `exec`'s arms, for an instruction without a meaning. Safe. -/
  | notModelled (mnemonic : String)
  /-- Raised by a host access to a CSR number that R22 reserves. Safe. -/
  | reservedRegister
  /-- Raised by a host access to an index outside a table's range (R61). Safe. -/
  | indexOutOfRange
  /-- Raised by a host access to a space id that R61 does not list. Safe. -/
  | noSuchSpace
  /-- Raised by a host write to an item that R22 or R61 gives the host read-only. Safe. -/
  | readOnlyItem
  /-- Raised by a host access while `STATUS.STATE` is `BUSY` (R42, R396). Safe. -/
  | busyAccess
deriving DecidableEq, Repr

/-- The machine right after reset (R40, R390): the registers at the values the spec gives, every table
and buffer unspecified (tag 0), no command running, no host transaction pending. -/
def State.reset : State where
  status := .idle
  err := none
  cfgLevel := 0xFFFFFFFF
  cfgWbits := 15
  cfgStrategy := 0
  cfgFraming := 0
  ilen := 0
  icons := 0
  rpos := 0
  wpos := 0
  ntok := 0
  adler := 1
  arg0 := 0
  arg1 := 0
  arg2 := 0
  arg3 := 0
  res0 := 0
  res1 := 0
  res2 := 0
  res3 := 0
  ibuf := ⟨[], 0⟩
  obuf := ⟨[], 0⟩
  freqLL := ⟨[], 0⟩
  freqD := ⟨[], 0⟩
  freqCL := ⟨[], 0⟩
  lenLL := ⟨[], 0⟩
  lenD := ⟨[], 0⟩
  lenCL := ⟨[], 0⟩
  codeLL := ⟨[], 0⟩
  codeD := ⟨[], 0⟩
  codeCL := ⟨[], 0⟩
  tok := ⟨[], 0⟩
  dtblLL := .unspecified 0
  dtblD := .unspecified 0
  dtblCL := .unspecified 0
  phase := .idle
  run := ⟨false, false, 0, 0⟩
  fresh := 1
  host := []
  hostData := 0

end Sys2Proof.Machine
end

