-- ==== Sys2Proof/Machine/Flags.lean ====
section
/-! DEFINITION. The condition flags of the hardware: `STATUS.STATE` and `ERR` (spec/10_state.md R25), with
the codes the host reads (R22, spec/60_exceptions.md R351) and their updates at the start and the end of
a command (spec/30_encoding.md R92). No command sets any other flag. -/

namespace Sys2Proof.Machine

/-- The value of `STATUS` (R22). -/
def statusCode : Status → Nat
  | .idle => 0
  | .busy => 1
  | .done => 2
  | .error => 3

/-- The code of an error (R351). -/
def errorCode : HwError → Nat
  | .invalidConfig => 1
  | .truncatedInput => 2
  | .invalidBlockType => 3
  | .invalidStoredLength => 4
  | .invalidHuffmanCode => 5
  | .windowSizeExceeded => 6
  | .invalidHeader => 7
  | .checksumMismatch => 8

/-- The value of `ERR` (R22, R351): 0 for none. -/
def errCode : Option HwError → Nat
  | none => 0
  | some e => errorCode e

/-- Command start (R92, R353): `STATE <- BUSY`, `ERR <- 0`. This is also all that "returning" from an
error is. -/
def State.begin (s : State) : State := { s with status := .busy, err := none }

/-- Command end (R92): `STATE <- DONE`. -/
def State.finish (s : State) : State := { s with status := .done }

/-- The flags after `raise E` (R352): `STATE <- ERROR`, `ERR <- code(E)`. -/
def State.flagError (e : HwError) (s : State) : State :=
  { s with status := .error, err := some e }

end Sys2Proof.Machine
end

