-- ==== Sys2Proof/Machine/Operands.lean ====
section
/-! DEFINITION. The operands of commands (spec/30_encoding.md R90, R91): the alphabet an `ARG` selects and
its tables (spec/41_huffman_encoder.md R160), the configuration (spec/10_state.md R23, R24) and its
checks, and the derived registers. -/

namespace Sys2Proof.Machine

/-- The alphabet an operand names (R160); any other id is an `InvalidConfig` of the command. -/
def alphabetOf (a : BitVec 32) : Option Alphabet :=
  if a = 0 then some .ll else if a = 1 then some .d else if a = 2 then some .cl else none

/-- `FREQ_a[0 .. NSYM)` (R31, R161). -/
def State.freqs (s : State) : Alphabet → List Nat
  | .ll => (s.freqLL.readRun 3 0 286).map (·.toNat)
  | .d => (s.freqD.readRun 4 0 30).map (·.toNat)
  | .cl => (s.freqCL.readRun 5 0 19).map (·.toNat)

/-- `LEN_a[i]` (R32). -/
def State.lenAt (s : State) (a : Alphabet) (i : Nat) : Nat :=
  match a with
  | .ll => (s.lenLL.read 6 i).toNat
  | .d => (s.lenD.read 7 i).toNat
  | .cl => (s.lenCL.read 8 i).toNat

/-- `LEN_a[0 .. NLEN)` (R32). -/
def State.lens (s : State) (a : Alphabet) : List Nat := (List.range a.nlen).map (s.lenAt a)

/-- `CODE_a[i]` (R33). -/
def State.codeAt (s : State) (a : Alphabet) (i : Nat) : Nat :=
  match a with
  | .ll => (s.codeLL.read 9 i).toNat
  | .d => (s.codeD.read 10 i).toNat
  | .cl => (s.codeCL.read 11 i).toNat

/-- `DTBL_a` (R34). -/
def State.dtbl (s : State) : Alphabet → DecTable
  | .ll => s.dtblLL
  | .d => s.dtblD
  | .cl => s.dtblCL

/-- Writes `LEN_a[0 ..]`, each entry kept to its width (R15(b), R32). -/
def State.setLens (a : Alphabet) (lens : List Nat) (s : State) : State :=
  match a with
  | .ll => { s with lenLL := s.lenLL.writeRun 0 (lens.map (BitVec.ofNat 4)) }
  | .d => { s with lenD := s.lenD.writeRun 0 (lens.map (BitVec.ofNat 4)) }
  | .cl => { s with lenCL := s.lenCL.writeRun 0 (lens.map (BitVec.ofNat 3)) }

/-- Writes `CODE_a[0 ..]` (R33). -/
def State.setCodes (a : Alphabet) (codes : List Nat) (s : State) : State :=
  match a with
  | .ll => { s with codeLL := s.codeLL.writeRun 0 (codes.map (BitVec.ofNat 15)) }
  | .d => { s with codeD := s.codeD.writeRun 0 (codes.map (BitVec.ofNat 15)) }
  | .cl => { s with codeCL := s.codeCL.writeRun 0 (codes.map (BitVec.ofNat 7)) }

/-- Writes `DTBL_a` (R34). -/
def State.setDtbl (a : Alphabet) (t : DecTable) (s : State) : State :=
  match a with
  | .ll => { s with dtblLL := t }
  | .d => { s with dtblD := t }
  | .cl => { s with dtblCL := t }

/-- `OLEN` (R22, R27). -/
def State.olen (s : State) : Nat := (s.wpos + 7) / 8

/-- `Level()` (R24): −1 stands for the default level. -/
def State.level (s : State) : Nat :=
  if s.cfgLevel.toInt = -1 then defaultLevel else s.cfgLevel.toInt.toNat

/-- `Window()` (R24). -/
def State.window (s : State) : Nat := 2 ^ s.cfgWbits.toNat

/-- `CFG_WBITS` in 9..15 (R211, R270, R311). -/
def State.wbitsOk (s : State) : Bool := 9 ≤ s.cfgWbits.toNat && s.cfgWbits.toNat ≤ 15

/-- `CheckConfig()` and `CheckConfigAll()` (R211, R301): the level is the only signed quantity (R15(c)). -/
def State.configOk (s : State) : Bool :=
  -1 ≤ s.cfgLevel.toInt && s.cfgLevel.toInt ≤ 9 && s.wbitsOk && s.cfgStrategy.toNat ≤ 4 &&
    s.cfgFraming.toNat ≤ 1

/-- What `DECOMPRESS` checks (R310, R311). -/
def State.decodeConfigOk (s : State) : Bool := s.wbitsOk && s.cfgFraming.toNat ≤ 1

end Sys2Proof.Machine
end

