-- ==== Sys2Proof/Machine/Ops.lean ====
section
/-! DEFINITION. The named operations every meaning is built from: the bit reader and writer
(spec/40_bitio.md R141 to R146), the appending of decoded bytes (spec/45_block_decoder.md R272, R285),
the tables' becoming unspecified (spec/10_state.md R41), the loading of the decode tables (R191, R192),
taking an error as ONE operation (spec/60_exceptions.md R352, R359), and the command step
(spec/30_encoding.md R92). The way back from an error is the next command's start (R353), `State.begin`. -/

namespace Sys2Proof.Machine

/-! ### Reading the stream -/

/-- `IBUF[i]` (R36). -/
def State.ibufAt (s : State) (i : Nat) : Byte := s.ibuf.read 1 i

/-- `IBUF[0 .. ILEN)`. -/
def State.inputBytes (s : State) : List Byte := s.ibuf.readRun 1 0 s.ilen

/-- `Remaining()` (R143); 0 where the host has lowered `ILEN` below the cursor (assumption log 18). -/
def State.remaining (s : State) : Nat := 8 * s.ilen - s.rpos

/-- Stream bit `RPOS + i` (R63). -/
def State.streamBit (s : State) (i : Nat) : Bool :=
  (s.ibufAt ((s.rpos + i) / 8)).getLsbD ((s.rpos + i) % 8)

/-- `SkipBits(n)` (R145). -/
def State.skip (n : Nat) (s : State) : State := { s with rpos := s.rpos + n }

/-- `AlignR()` (R146). -/
def State.alignR (s : State) : State := { s with rpos := 8 * ((s.rpos + 7) / 8) }

/-- `ReadBits(n)` (R143): the field and the moved cursor, or `none` when fewer than `n` bits remain. -/
def State.readBits (n : Nat) (s : State) : Option (Nat × State) :=
  if s.remaining < n then none else some (fieldAt s.streamBit 0 n, s.skip n)

/-- What the stream decoder needs to know (R112). -/
def State.ctx (s : State) : StreamCtx := ⟨s.phase, s.rpos % 8, s.dtblLL, s.dtblD, s.dtblCL⟩

/-! ### Writing the stream -/

/-- `OBUF[i]` (R36). -/
def State.obufAt (s : State) (i : Nat) : Byte := s.obuf.read 2 i

/-- `OBUF[0 .. OLEN)`. -/
def State.outputBytes (s : State) : List Byte := s.obuf.readRun 2 0 s.olen

/-- Appends bits at `WPOS`, first bit first: `WriteBits` (R141) of the fields they come from, one after
the other. A byte that a bit starts has its upper bits 0; a byte already begun is joined by OR. -/
def State.appendBits (bits : List Bool) (s : State) : State :=
  if bits.isEmpty then s
  else
    let begun := if s.wpos % 8 = 0 then 0 else (s.obufAt (s.wpos / 8)).toNat
    { s with
      obuf := s.obuf.writeRun (s.wpos / 8) (packBits begun (s.wpos % 8) bits)
      wpos := s.wpos + bits.length }

/-- `WriteBits(v, n)` (R141). -/
def State.writeBits (v n : Nat) (s : State) : State := s.appendBits (bitsOf v n)

/-- `AlignW()` (R142): the pad bits already read as 0. -/
def State.alignW (s : State) : State := { s with wpos := 8 * ((s.wpos + 7) / 8) }

/-- `OutByte` of each byte in order (R272). -/
def State.outBytes (bs : List Byte) (s : State) : State :=
  if bs.isEmpty then s
  else { s with obuf := s.obuf.writeRun (s.wpos / 8) bs, wpos := s.wpos + 8 * bs.length }

/-- The copying loop of R285: byte-serial, `OLEN` read again each time (R74). -/
def copyBytes (dist : Nat) : Nat → State → State
  | 0, s => s
  | n + 1, s => copyBytes dist n (s.outBytes [s.obufAt (s.olen - dist)])

/-! ### Contents that become unspecified -/

/-- Both cursors and `NTOK` cleared (R140, R302); the bytes of `OBUF` become unspecified (U8). -/
def State.clearCursors (s : State) : State :=
  { s with rpos := 0, wpos := 0, ntok := 0, obuf := .unspecified s.fresh, fresh := s.fresh + 1 }

/-- `FREQ_*`, `LEN_*`, `CODE_*` and `DTBL_*` become unspecified: the end of `COMPRESS`, `DECOMPRESS`,
`ENCBLK` and `DECBLK` (R41, R395(b), U3; assumption log 6). -/
def State.dropTables (s : State) : State :=
  { s with
    freqLL := .unspecified s.fresh, freqD := .unspecified s.fresh, freqCL := .unspecified s.fresh
    lenLL := .unspecified s.fresh, lenD := .unspecified s.fresh, lenCL := .unspecified s.fresh
    codeLL := .unspecified s.fresh, codeD := .unspecified s.fresh, codeCL := .unspecified s.fresh
    dtblLL := .unspecified s.fresh, dtblD := .unspecified s.fresh, dtblCL := .unspecified s.fresh
    fresh := s.fresh + 1 }

/-! ### Taking an error -/

/-- What a command's own rule keeps although R359 leaves it unspecified after an error
(assumption log 5). -/
structure ErrorKeep where
  rpos : Bool := false
  adler : Bool := false
  lens : Option Alphabet := none
  obufBelow : Nat := 0
deriving DecidableEq, Repr

/-- `LEN_a` after an error, kept or unspecified. -/
def keepLens {w : Nat} (k : ErrorKeep) (a : Alphabet) (m : Memory w) (tag : Nat) : Memory w :=
  if k.lens = some a then m else .unspecified tag

/-- The items R359 leaves unspecified after an error other than `InvalidConfig`. `RPOS` stays within
its bound `8·ILEN` (R26, assumption log 12). -/
def State.dropAfterError (k : ErrorKeep) (s : State) : State :=
  { s with
    rpos := if k.rpos then s.rpos else Config.freeNat 10 s.fresh % (8 * s.ilen + 1)
    wpos := Config.freeNat 11 s.fresh
    icons := Config.freeNat 9 s.fresh
    adler := if k.adler then s.adler else BitVec.ofNat 32 (Config.freeNat 13 s.fresh)
    obuf := s.obuf.keepBelow k.obufBelow s.fresh
    lenLL := keepLens k .ll s.lenLL s.fresh
    lenD := keepLens k .d s.lenD s.fresh
    lenCL := keepLens k .cl s.lenCL s.fresh
    dtblLL := .unspecified s.fresh
    dtblD := .unspecified s.fresh
    dtblCL := .unspecified s.fresh
    fresh := s.fresh + 1 }

/-- `raise E` (R352, R359): the flags, and but for `InvalidConfig` the unspecified items. Nothing is
saved, no mode changes, control goes nowhere. -/
def State.raise (k : ErrorKeep) (e : HwError) (s : State) : State :=
  if e = .invalidConfig then s.flagError e else (s.dropAfterError k).flagError e

/-- What the running decode command's rule keeps: `DECBLK` the output produced before it (R270), a raw
`DECOMPRESS` the `ADLER` register (R310, R330). -/
def State.decodeKeep (s : State) : ErrorKeep :=
  if s.run.whole then { adler := s.cfgFraming != 1 } else { obufBelow := s.run.base }

/-- `raise E` inside `DECBLK` or `DECOMPRESS`: the command ends, so no decode mode is left. -/
def State.raiseDecode (e : HwError) (s : State) : State :=
  { s.raise s.decodeKeep e with phase := .idle }

/-! ### The command step -/

/-- The step of R92: start, the pseudocode `body`, then `DONE` or the error it raised. Either way the
machine goes on to a next state. -/
def command (k : ErrorKeep) (body : State → Except HwError State) (s : State) :
    Host.Outcome State Fault Refusal :=
  .next
    (match body s.begin with
    | .ok t => t.finish
    | .error e => s.begin.raise k e)

/-- `BuildDecoder(a)` on given lengths (R191): `CheckCode` (R192), then the table. -/
def State.buildDecoder (a : Alphabet) (lens : List Nat) (s : State) : Except HwError State :=
  if codeAccepted a lens then .ok (s.setDtbl a (builtTable a lens)) else .error .invalidHuffmanCode

end Sys2Proof.Machine
end

