-- ==== Sys2Proof/Machine/BitIO.lean ====
section
/-! DEFINITION. The bit reader and writer as commands: `BITINIT`, `WRBITS`, `RDBITS`, `ALIGNW`, `ALIGNR`
(spec/40_bitio.md R140, R147 to R150), and the reserved opcodes (spec/30_encoding.md R93). -/

namespace Sys2Proof.Machine

/-- `BITINIT` (R140). -/
def execBitinit (s : State) : Host.Outcome State Fault Refusal :=
  command {} (fun b => .ok b.clearCursors) s

/-- `WRBITS` (R147): `ARG0` the value, `ARG1` the bit count. -/
def execWrbits (s : State) : Host.Outcome State Fault Refusal :=
  command {} (fun b =>
    if bitsMax < b.arg1.toNat then .error .invalidConfig
    else .ok (b.writeBits b.arg0.toNat b.arg1.toNat)) s

/-- `RDBITS` (R148): `ARG0` the bit count; `RPOS` survives its error. -/
def execRdbits (s : State) : Host.Outcome State Fault Refusal :=
  command { rpos := true } (fun b =>
    if bitsMax < b.arg0.toNat then .error .invalidConfig
    else
      match b.readBits b.arg0.toNat with
      | none => .error .truncatedInput
      | some (v, t) => .ok { t with res0 := BitVec.ofNat 32 v }) s

/-- `ALIGNW` (R149). -/
def execAlignw (s : State) : Host.Outcome State Fault Refusal :=
  command {} (fun b => .ok b.alignW) s

/-- `ALIGNR` (R150). -/
def execAlignr (s : State) : Host.Outcome State Fault Refusal :=
  command {} (fun b => .ok b.alignR) s

/-- A reserved opcode (R93): `InvalidConfig`, whatever the opcode. -/
def execReservedCmd (_op : BitVec 8) (s : State) : Host.Outcome State Fault Refusal :=
  command {} (fun _ => .error .invalidConfig) s

end Sys2Proof.Machine
end

