-- ==== Sys2Proof/Machine/HuffDec.lean ====
section
/-! DEFINITION. The Huffman decoder as commands: `HDBUILD` and `HDSYM` (spec/42_huffman_decoder.md R190 to
R198). `CheckCode`, the table and `DecodeSym` themselves stand in Sys2Proof/Machine/Codes.lean and
Sys2Proof/Decode.lean, where the block decoder shares them. -/

namespace Sys2Proof.Machine

/-- `HDBUILD` (R191): `LEN_a` survives its error, `DTBL_a` does not. -/
def execHdbuild (s : State) : Host.Outcome State Fault Refusal :=
  command { lens := alphabetOf s.arg0 } (fun b =>
    match alphabetOf b.arg0 with
    | none => .error .invalidConfig
    | some a => b.buildDecoder a (b.lens a)) s

/-- `HDSYM` (R196): the symbol to `RES0`, its length to `RES1`; `RPOS` survives its errors. -/
def execHdsym (s : State) : Host.Outcome State Fault Refusal :=
  command { rpos := true } (fun b =>
    match alphabetOf b.arg0 with
    | none => .error .invalidConfig
    | some a =>
      match decodeSym a (b.dtbl a) b.streamBit b.remaining with
      | .ok (sym, n) =>
        .ok { b.skip n with res0 := BitVec.ofNat 32 sym, res1 := BitVec.ofNat 32 n }
      | .error (.raises e) => .error e
      | .error .notDecoding => .error .invalidHuffmanCode) s

end Sys2Proof.Machine
end

