-- ==== Sys2Proof/Machine/Framing.lean ====
section
/-! DEFINITION. The framing layer (spec/47_framing.md R330 to R335): the zlib header as written and as
accepted, Adler-32, and the command `ADLER32`. -/

namespace Sys2Proof.Machine

/-- `Adler32(bytes)` (R332). -/
def adlerOf (bs : List Byte) : Nat :=
  let r := bs.foldl (fun (p : Nat × Nat) x =>
    let a := (p.1 + x.toNat) % 65521
    (a, (p.2 + a) % 65521)) (1, 0)
  r.2 * 65536 + r.1

/-- `ADLER32` (R332): the checksum of the input to `RES0` and `ADLER`. -/
def execAdler32 (s : State) : Host.Outcome State Fault Refusal :=
  command {} (fun b =>
    let v := BitVec.ofNat 32 (adlerOf b.inputBytes)
    .ok { b with res0 := v, adler := v }) s

/-- `FLEVEL` (R331). -/
def flevel (level : Nat) : Nat :=
  if level ≤ 1 then 0 else if level ≤ 5 then 1 else if level = 6 then 2 else 3

/-- `CMF` as written (R331). -/
def zlibCmf (wbits : Nat) : Nat := (wbits - 8) * 16 + 8

/-- `FLG` as written (R331), with the check that makes the header a multiple of 31. -/
def zlibFlg (wbits level : Nat) : Nat :=
  let flg := flevel level * 64
  flg + (31 - (zlibCmf wbits * 256 + flg) % 31) % 31

/-- `WriteZlibHeader()` (R331) as bits. -/
def zlibHeaderBits (wbits level : Nat) : List Bool :=
  bitsOf (zlibCmf wbits) 8 ++ bitsOf (zlibFlg wbits level) 8

/-- The trailer (R300, R333): four bytes, most significant first. -/
def adlerBits (v : Nat) : List Bool :=
  bitsOf (v / 16777216) 8 ++ bitsOf (v / 65536) 8 ++ bitsOf (v / 256) 8 ++ bitsOf v 8

/-- The four checks of `ReadZlibHeader()` (R335). -/
def zlibHeaderOk (cmf flg : Nat) : Bool :=
  cmf % 16 == 8 && cmf / 16 ≤ 7 && (cmf * 256 + flg) % 31 == 0 && flg / 32 % 2 == 0

end Sys2Proof.Machine
end

