-- ==== Sys2Proof/Machine/ElementOps.lean ====
section
/-! DEFINITION. What the stream elements share (spec/45_block_decoder.md R272 to R285): the end of a block, literals,
length and distance symbols, the copy, and the code lengths of a dynamic block. Each operation acts in
the decode mode of spec/30_encoding.md R112 that its element belongs to, consumes the element's bits
(R100) and sets the mode of the next element. -/

namespace Sys2Proof.Machine

/-- The end of a block (R270, R310): `DECBLK` reports and ends; `DECOMPRESS` goes to the next header, or
after the final block aligns (R314) and goes to the trailer or to its end (R315). The tables' contents
become unspecified at the end (R41). -/
def State.endBlock (s : State) : State :=
  if s.run.whole then
    if s.run.bfinal then
      let a := s.alignR
      if s.cfgFraming = 1 then { a with phase := .zlibAdler }
      else ({ a.dropTables with icons := a.rpos / 8, phase := .idle }).finish
    else { s with phase := .blockHdr }
  else
    ({ s.dropTables with
        res0 := if s.run.bfinal then 1 else 0
        res1 := s.run.btype.setWidth 32
        phase := .idle }).finish

/-- A block header (R273): three bits read, the header's fields noted, the mode of its type. -/
def headerElement (bfinal : Bool) (btype : BitVec 2) (next : State → State) (s : State) :
    Host.Outcome State Fault Refusal :=
  match s.phase with
  | .blockHdr =>
    .next (next { s.skip 3 with run := { s.run with bfinal := bfinal, btype := btype } })
  | _ => .fault .elementOutOfMode

/-- `LoadFixed()` (R275). -/
def State.loadFixed (s : State) : State :=
  { ((((s.setLens .ll fixedLenLL).setLens .d fixedLenD).setDtbl .ll (fixedTable .ll)).setDtbl .d
      (fixedTable .d)) with phase := .data .fixed }

/-- A literal (R281): its byte is output, the codeword's `n` bits are consumed. -/
def literalElement (k : BlockKind) (b : Byte) (n : Nat) (s : State) :
    Host.Outcome State Fault Refusal :=
  if s.phase = .data k then .next ((s.skip n).outBytes [b]) else .fault .elementOutOfMode

/-- End of block (R282). -/
def eobElement (k : BlockKind) (n : Nat) (s : State) : Host.Outcome State Fault Refusal :=
  if s.phase = .data k then .next (s.skip n).endBlock else .fault .elementOutOfMode

/-- The codeword of a length symbol (R284): its extra bits come next. -/
def lengthCodeElement (k : BlockKind) (sym n : Nat) (s : State) :
    Host.Outcome State Fault Refusal :=
  if s.phase = .data k then .next { s.skip n with phase := .lenExtra k sym }
  else .fault .elementOutOfMode

/-- The codeword of a distance symbol (R284): its extra bits come next. -/
def distCodeElement (k : BlockKind) (d n : Nat) (s : State) : Host.Outcome State Fault Refusal :=
  match s.phase with
  | .distCode k' length =>
    if k' = k then .next { s.skip n with phase := .distExtra k length d }
    else .fault .elementOutOfMode
  | _ => .fault .elementOutOfMode

/-- Length symbol `257 + i` with extra value `x` (R106, R113, R284): the length is known, the distance
codeword comes next. -/
def lengthElement (i x : Nat) (s : State) : Host.Outcome State Fault Refusal :=
  match s.phase with
  | .lenExtra k sym =>
    if sym = 257 + i then
      .next { s.skip (lengthExtra i) with phase := .distCode k (lengthBase i + x) }
    else .fault .elementOutOfMode
  | _ => .fault .elementOutOfMode

/-- `CopyMatch(length, dist)` (R285): the check once, then the byte-serial copy (R74). -/
def State.copyMatch (length dist : Nat) (s : State) : Except HwError State :=
  if s.window < dist ∨ s.olen < dist then .error .windowSizeExceeded
  else .ok (copyBytes dist length s)

/-- Distance symbol `d` with extra value `x` (R107, R113, R284, R285): the match is copied. -/
def distElement (d x : Nat) (s : State) : Host.Outcome State Fault Refusal :=
  match s.phase with
  | .distExtra k length d' =>
    if d' = d then
      match (s.skip (distExtra d)).copyMatch length (distBase d + x) with
      | .ok t => .next { t with phase := .data k }
      | .error e => .next (s.raiseDecode e)
    else .fault .elementOutOfMode
  | _ => .fault .elementOutOfMode

/-- Distance symbols 30 and 31 (R284): `InvalidHuffmanCode` before the window check. -/
def distInvalidElement (d : Nat) (s : State) : Host.Outcome State Fault Refusal :=
  match s.phase with
  | .distExtra _ _ d' =>
    if d' = d then .next (s.raiseDecode .invalidHuffmanCode) else .fault .elementOutOfMode
  | _ => .fault .elementOutOfMode

/-- The last part of `LoadDynamic()` (R279): the lengths to their tables, symbol 256 present, both codes
accepted. -/
def State.loadDynamic (nl : Nat) (seq : List Nat) (s : State) : Except HwError State :=
  let ll := seq.take nl ++ List.replicate (288 - nl) 0
  let d := seq.drop nl ++ List.replicate (32 - (seq.length - nl)) 0
  if ll.getD 256 0 = 0 then .error .invalidHuffmanCode
  else
    match ((s.setLens .ll ll).setLens .d d).buildDecoder .ll ll with
    | .error e => .error e
    | .ok t =>
      match t.buildDecoder .d d with
      | .error e => .error e
      | .ok u => .ok { u with phase := .data .dynamic }

/-- Code lengths decoded so far (R278): an overrun is refused, a full sequence is loaded (R279). -/
def State.extendLens (nl nd : Nat) (seq : List Nat) (s : State) : Except HwError State :=
  if nl + nd < seq.length then .error .invalidHuffmanCode
  else if seq.length = nl + nd then s.loadDynamic nl seq
  else .ok { s with phase := .dynLens nl nd seq }

/-- Code-length symbol `k` (R109, R278) of codeword length `n` and extra value `x`. -/
def clElement (k n x : Nat) (s : State) : Host.Outcome State Fault Refusal :=
  match s.phase with
  | .dynLens nl nd seq =>
    let more :=
      if k ≤ 15 then [k]
      else if k = 16 then List.replicate (3 + x) (seq.getLastD 0)
      else if k = 17 then List.replicate (3 + x) 0
      else List.replicate (11 + x) 0
    if k = 16 ∧ seq = [] then .next (s.raiseDecode .invalidHuffmanCode)
    else
      match (s.skip (n + clExtra k)).extendLens nl nd (seq ++ more) with
      | .ok t => .next t
      | .error e => .next (s.raiseDecode e)
  | _ => .fault .elementOutOfMode


end Sys2Proof.Machine
end

