-- ==== Sys2Proof/Machine/DistSyms.lean ====
section
/-! DEFINITION. The distance symbols with their extra bits (spec/30_encoding.md R107; spec/45_block_decoder.md R284,
R285). -/

namespace Sys2Proof.Machine

/-- `DIST_0`: Distance symbol 0: base 1, 0 extra bits (R107). -/
def execDist0 (s : State) : Host.Outcome State Fault Refusal :=
  distElement 0 0 s

/-- `DIST_1`: Distance symbol 1: base 2, 0 extra bits (R107). -/
def execDist1 (s : State) : Host.Outcome State Fault Refusal :=
  distElement 1 0 s

/-- `DIST_2`: Distance symbol 2: base 3, 0 extra bits (R107). -/
def execDist2 (s : State) : Host.Outcome State Fault Refusal :=
  distElement 2 0 s

/-- `DIST_3`: Distance symbol 3: base 4, 0 extra bits (R107). -/
def execDist3 (s : State) : Host.Outcome State Fault Refusal :=
  distElement 3 0 s

/-- `DIST_4`: Distance symbol 4: base 5, 1 extra bits (R107). -/
def execDist4 (x : BitVec 1) (s : State) : Host.Outcome State Fault Refusal :=
  distElement 4 x.toNat s

/-- `DIST_5`: Distance symbol 5: base 7, 1 extra bits (R107). -/
def execDist5 (x : BitVec 1) (s : State) : Host.Outcome State Fault Refusal :=
  distElement 5 x.toNat s

/-- `DIST_6`: Distance symbol 6: base 9, 2 extra bits (R107). -/
def execDist6 (x : BitVec 2) (s : State) : Host.Outcome State Fault Refusal :=
  distElement 6 x.toNat s

/-- `DIST_7`: Distance symbol 7: base 13, 2 extra bits (R107). -/
def execDist7 (x : BitVec 2) (s : State) : Host.Outcome State Fault Refusal :=
  distElement 7 x.toNat s

/-- `DIST_8`: Distance symbol 8: base 17, 3 extra bits (R107). -/
def execDist8 (x : BitVec 3) (s : State) : Host.Outcome State Fault Refusal :=
  distElement 8 x.toNat s

/-- `DIST_9`: Distance symbol 9: base 25, 3 extra bits (R107). -/
def execDist9 (x : BitVec 3) (s : State) : Host.Outcome State Fault Refusal :=
  distElement 9 x.toNat s

/-- `DIST_10`: Distance symbol 10: base 33, 4 extra bits (R107). -/
def execDist10 (x : BitVec 4) (s : State) : Host.Outcome State Fault Refusal :=
  distElement 10 x.toNat s

/-- `DIST_11`: Distance symbol 11: base 49, 4 extra bits (R107). -/
def execDist11 (x : BitVec 4) (s : State) : Host.Outcome State Fault Refusal :=
  distElement 11 x.toNat s

/-- `DIST_12`: Distance symbol 12: base 65, 5 extra bits (R107). -/
def execDist12 (x : BitVec 5) (s : State) : Host.Outcome State Fault Refusal :=
  distElement 12 x.toNat s

/-- `DIST_13`: Distance symbol 13: base 97, 5 extra bits (R107). -/
def execDist13 (x : BitVec 5) (s : State) : Host.Outcome State Fault Refusal :=
  distElement 13 x.toNat s

/-- `DIST_14`: Distance symbol 14: base 129, 6 extra bits (R107). -/
def execDist14 (x : BitVec 6) (s : State) : Host.Outcome State Fault Refusal :=
  distElement 14 x.toNat s

/-- `DIST_15`: Distance symbol 15: base 193, 6 extra bits (R107). -/
def execDist15 (x : BitVec 6) (s : State) : Host.Outcome State Fault Refusal :=
  distElement 15 x.toNat s

/-- `DIST_16`: Distance symbol 16: base 257, 7 extra bits (R107). -/
def execDist16 (x : BitVec 7) (s : State) : Host.Outcome State Fault Refusal :=
  distElement 16 x.toNat s

/-- `DIST_17`: Distance symbol 17: base 385, 7 extra bits (R107). -/
def execDist17 (x : BitVec 7) (s : State) : Host.Outcome State Fault Refusal :=
  distElement 17 x.toNat s

/-- `DIST_18`: Distance symbol 18: base 513, 8 extra bits (R107). -/
def execDist18 (x : BitVec 8) (s : State) : Host.Outcome State Fault Refusal :=
  distElement 18 x.toNat s

/-- `DIST_19`: Distance symbol 19: base 769, 8 extra bits (R107). -/
def execDist19 (x : BitVec 8) (s : State) : Host.Outcome State Fault Refusal :=
  distElement 19 x.toNat s

/-- `DIST_20`: Distance symbol 20: base 1025, 9 extra bits (R107). -/
def execDist20 (x : BitVec 9) (s : State) : Host.Outcome State Fault Refusal :=
  distElement 20 x.toNat s

/-- `DIST_21`: Distance symbol 21: base 1537, 9 extra bits (R107). -/
def execDist21 (x : BitVec 9) (s : State) : Host.Outcome State Fault Refusal :=
  distElement 21 x.toNat s

/-- `DIST_22`: Distance symbol 22: base 2049, 10 extra bits (R107). -/
def execDist22 (x : BitVec 10) (s : State) : Host.Outcome State Fault Refusal :=
  distElement 22 x.toNat s

/-- `DIST_23`: Distance symbol 23: base 3073, 10 extra bits (R107). -/
def execDist23 (x : BitVec 10) (s : State) : Host.Outcome State Fault Refusal :=
  distElement 23 x.toNat s

/-- `DIST_24`: Distance symbol 24: base 4097, 11 extra bits (R107). -/
def execDist24 (x : BitVec 11) (s : State) : Host.Outcome State Fault Refusal :=
  distElement 24 x.toNat s

/-- `DIST_25`: Distance symbol 25: base 6145, 11 extra bits (R107). -/
def execDist25 (x : BitVec 11) (s : State) : Host.Outcome State Fault Refusal :=
  distElement 25 x.toNat s

/-- `DIST_26`: Distance symbol 26: base 8193, 12 extra bits (R107). -/
def execDist26 (x : BitVec 12) (s : State) : Host.Outcome State Fault Refusal :=
  distElement 26 x.toNat s

/-- `DIST_27`: Distance symbol 27: base 12289, 12 extra bits (R107). -/
def execDist27 (x : BitVec 12) (s : State) : Host.Outcome State Fault Refusal :=
  distElement 27 x.toNat s

/-- `DIST_28`: Distance symbol 28: base 16385, 13 extra bits (R107). -/
def execDist28 (x : BitVec 13) (s : State) : Host.Outcome State Fault Refusal :=
  distElement 28 x.toNat s

/-- `DIST_29`: Distance symbol 29: base 24577, 13 extra bits (R107). -/
def execDist29 (x : BitVec 13) (s : State) : Host.Outcome State Fault Refusal :=
  distElement 29 x.toNat s

/-- `DIST_30`: Distance symbol 30 denotes nothing (R107, R284). -/
def execDist30 (s : State) : Host.Outcome State Fault Refusal :=
  distInvalidElement 30 s

/-- `DIST_31`: Distance symbol 31 denotes nothing (R107, R284). -/
def execDist31 (s : State) : Host.Outcome State Fault Refusal :=
  distInvalidElement 31 s


end Sys2Proof.Machine
end

