-- ==== Sys2Proof/Machine/DynHeader.lean ====
section
/-! DEFINITION. The elements of a dynamic block's header (spec/30_encoding.md R108, R109; spec/45_block_decoder.md R276
to R279). -/

namespace Sys2Proof.Machine

/-- `DYN_HDR`: the three counts, checked after all are read (R276); the code-length lengths start as 0
(R277). -/
def execDynHdr (hlit : BitVec 5) (hdist : BitVec 5) (hclen : BitVec 4) (s : State) :
    Host.Outcome State Fault Refusal :=
  match s.phase with
  | .dynHdr =>
    let nl := hlit.toNat + 257
    let nd := hdist.toNat + 1
    if 286 < nl ∨ 30 < nd then .next (s.raiseDecode .invalidHuffmanCode)
    else
      .next { (s.skip 14).setLens .cl (List.replicate 19 0) with
        phase := .dynClLen nl nd (hclen.toNat + 4) 0 }
  | _ => .fault .elementOutOfMode

/-- `DYN_CL_LEN`: field `j` is `LEN_CL[CLORD[j]]`; after the last one the code-length code must be
complete (R277). -/
def execDynClLen (v : BitVec 3) (s : State) : Host.Outcome State Fault Refusal :=
  match s.phase with
  | .dynClLen nl nd nc j =>
    let t := { s.skip 3 with lenCL := s.lenCL.write (clOrder.getD j 0) v }
    if j + 1 < nc then .next { t with phase := .dynClLen nl nd nc (j + 1) }
    else
      match t.buildDecoder .cl (t.lens .cl) with
      | .ok u => .next { u with phase := .dynLens nl nd [] }
      | .error e => .next (s.raiseDecode e)
  | _ => .fault .elementOutOfMode

/-- `CL_0`: Code-length symbol 0; `n` is its codeword's length (R109, R278). -/
def execCl0 (n : BitVec 4) (s : State) : Host.Outcome State Fault Refusal :=
  clElement 0 n.toNat 0 s

/-- `CL_1`: Code-length symbol 1; `n` is its codeword's length (R109, R278). -/
def execCl1 (n : BitVec 4) (s : State) : Host.Outcome State Fault Refusal :=
  clElement 1 n.toNat 0 s

/-- `CL_2`: Code-length symbol 2; `n` is its codeword's length (R109, R278). -/
def execCl2 (n : BitVec 4) (s : State) : Host.Outcome State Fault Refusal :=
  clElement 2 n.toNat 0 s

/-- `CL_3`: Code-length symbol 3; `n` is its codeword's length (R109, R278). -/
def execCl3 (n : BitVec 4) (s : State) : Host.Outcome State Fault Refusal :=
  clElement 3 n.toNat 0 s

/-- `CL_4`: Code-length symbol 4; `n` is its codeword's length (R109, R278). -/
def execCl4 (n : BitVec 4) (s : State) : Host.Outcome State Fault Refusal :=
  clElement 4 n.toNat 0 s

/-- `CL_5`: Code-length symbol 5; `n` is its codeword's length (R109, R278). -/
def execCl5 (n : BitVec 4) (s : State) : Host.Outcome State Fault Refusal :=
  clElement 5 n.toNat 0 s

/-- `CL_6`: Code-length symbol 6; `n` is its codeword's length (R109, R278). -/
def execCl6 (n : BitVec 4) (s : State) : Host.Outcome State Fault Refusal :=
  clElement 6 n.toNat 0 s

/-- `CL_7`: Code-length symbol 7; `n` is its codeword's length (R109, R278). -/
def execCl7 (n : BitVec 4) (s : State) : Host.Outcome State Fault Refusal :=
  clElement 7 n.toNat 0 s

/-- `CL_8`: Code-length symbol 8; `n` is its codeword's length (R109, R278). -/
def execCl8 (n : BitVec 4) (s : State) : Host.Outcome State Fault Refusal :=
  clElement 8 n.toNat 0 s

/-- `CL_9`: Code-length symbol 9; `n` is its codeword's length (R109, R278). -/
def execCl9 (n : BitVec 4) (s : State) : Host.Outcome State Fault Refusal :=
  clElement 9 n.toNat 0 s

/-- `CL_10`: Code-length symbol 10; `n` is its codeword's length (R109, R278). -/
def execCl10 (n : BitVec 4) (s : State) : Host.Outcome State Fault Refusal :=
  clElement 10 n.toNat 0 s

/-- `CL_11`: Code-length symbol 11; `n` is its codeword's length (R109, R278). -/
def execCl11 (n : BitVec 4) (s : State) : Host.Outcome State Fault Refusal :=
  clElement 11 n.toNat 0 s

/-- `CL_12`: Code-length symbol 12; `n` is its codeword's length (R109, R278). -/
def execCl12 (n : BitVec 4) (s : State) : Host.Outcome State Fault Refusal :=
  clElement 12 n.toNat 0 s

/-- `CL_13`: Code-length symbol 13; `n` is its codeword's length (R109, R278). -/
def execCl13 (n : BitVec 4) (s : State) : Host.Outcome State Fault Refusal :=
  clElement 13 n.toNat 0 s

/-- `CL_14`: Code-length symbol 14; `n` is its codeword's length (R109, R278). -/
def execCl14 (n : BitVec 4) (s : State) : Host.Outcome State Fault Refusal :=
  clElement 14 n.toNat 0 s

/-- `CL_15`: Code-length symbol 15; `n` is its codeword's length (R109, R278). -/
def execCl15 (n : BitVec 4) (s : State) : Host.Outcome State Fault Refusal :=
  clElement 15 n.toNat 0 s

/-- `CL_16`: Code-length symbol 16; `n` is its codeword's length (R109, R278). -/
def execCl16 (n : BitVec 4) (x : BitVec 2) (s : State) : Host.Outcome State Fault Refusal :=
  clElement 16 n.toNat x.toNat s

/-- `CL_17`: Code-length symbol 17; `n` is its codeword's length (R109, R278). -/
def execCl17 (n : BitVec 4) (x : BitVec 3) (s : State) : Host.Outcome State Fault Refusal :=
  clElement 17 n.toNat x.toNat s

/-- `CL_18`: Code-length symbol 18; `n` is its codeword's length (R109, R278). -/
def execCl18 (n : BitVec 4) (x : BitVec 7) (s : State) : Host.Outcome State Fault Refusal :=
  clElement 18 n.toNat x.toNat s


end Sys2Proof.Machine
end

