-- ==== Sys2Proof/Machine/HuffData.lean ====
section
/-! DEFINITION. The codeword elements of fixed and dynamic blocks (spec/30_encoding.md R103 to R105;
spec/45_block_decoder.md R280 to R284). -/

namespace Sys2Proof.Machine

/-- `FIXED_LIT_0_143`: Literal 0..143 under the fixed code, 8 bits (R105, R281). -/
def execFixedLit0To143 (sym : BitVec 8) (s : State) : Host.Outcome State Fault Refusal :=
  literalElement .fixed sym 8 s

/-- `FIXED_LIT_144_255`: Literal 144..255 under the fixed code, 9 bits (R105, R281). -/
def execFixedLit144To255 (sym : BitVec 8) (s : State) : Host.Outcome State Fault Refusal :=
  literalElement .fixed sym 9 s

/-- `FIXED_EOB`: End of block under the fixed code, 7 bits (R105, R282). -/
def execFixedEob (s : State) : Host.Outcome State Fault Refusal :=
  eobElement .fixed 7 s

/-- `FIXED_LEN_257_279`: Codeword of length symbol 257..279 under the fixed code, 7 bits (R105, R284). -/
def execFixedLen257To279 (sym : BitVec 9) (s : State) :
    Host.Outcome State Fault Refusal :=
  lengthCodeElement .fixed sym.toNat 7 s

/-- `FIXED_LEN_280_285`: Codeword of length symbol 280..285 under the fixed code, 8 bits (R105, R284). -/
def execFixedLen280To285 (sym : BitVec 9) (s : State) :
    Host.Outcome State Fault Refusal :=
  lengthCodeElement .fixed sym.toNat 8 s

/-- `FIXED_LL_286_287`: `InvalidHuffmanCode` (R283). -/
def execFixedLL286To287 (_sym : BitVec 9) (s : State) : Host.Outcome State Fault Refusal :=
  if s.phase = .data .fixed then .next (s.raiseDecode .invalidHuffmanCode)
  else .fault .elementOutOfMode

/-- `FIXED_DIST`: Distance codeword of the fixed code, 5 bits (R105, R284). -/
def execFixedDist (d : BitVec 5) (s : State) : Host.Outcome State Fault Refusal :=
  distCodeElement .fixed d.toNat 5 s

/-- `DYN_LIT`: Literal under the transmitted code; `n` is its codeword's length (R281). -/
def execDynLit (sym : BitVec 8) (n : BitVec 4) (s : State) : Host.Outcome State Fault Refusal :=
  literalElement .dynamic sym n.toNat s

/-- `DYN_EOB`: End of block under the transmitted code (R282). -/
def execDynEob (n : BitVec 4) (s : State) : Host.Outcome State Fault Refusal :=
  eobElement .dynamic n.toNat s

/-- `DYN_LEN`: Codeword of a length symbol 257..285 under the transmitted code (R284). -/
def execDynLen (sym : BitVec 9) (n : BitVec 4) (s : State) : Host.Outcome State Fault Refusal :=
  lengthCodeElement .dynamic sym.toNat n.toNat s

/-- `DYN_DIST`: Distance codeword under the transmitted code (R284). -/
def execDynDist (d : BitVec 5) (n : BitVec 4) (s : State) : Host.Outcome State Fault Refusal :=
  distCodeElement .dynamic d.toNat n.toNat s


end Sys2Proof.Machine
end

