-- ==== Sys2Proof/Machine/LengthSyms.lean ====
section
/-! DEFINITION. The length symbols with their extra bits (spec/30_encoding.md R106; spec/45_block_decoder.md R284). -/

namespace Sys2Proof.Machine

/-- `LEN_257`: Length symbol 257: base 3, 0 extra bits (R106). -/
def execLen257 (s : State) : Host.Outcome State Fault Refusal :=
  lengthElement 0 0 s

/-- `LEN_258`: Length symbol 258: base 4, 0 extra bits (R106). -/
def execLen258 (s : State) : Host.Outcome State Fault Refusal :=
  lengthElement 1 0 s

/-- `LEN_259`: Length symbol 259: base 5, 0 extra bits (R106). -/
def execLen259 (s : State) : Host.Outcome State Fault Refusal :=
  lengthElement 2 0 s

/-- `LEN_260`: Length symbol 260: base 6, 0 extra bits (R106). -/
def execLen260 (s : State) : Host.Outcome State Fault Refusal :=
  lengthElement 3 0 s

/-- `LEN_261`: Length symbol 261: base 7, 0 extra bits (R106). -/
def execLen261 (s : State) : Host.Outcome State Fault Refusal :=
  lengthElement 4 0 s

/-- `LEN_262`: Length symbol 262: base 8, 0 extra bits (R106). -/
def execLen262 (s : State) : Host.Outcome State Fault Refusal :=
  lengthElement 5 0 s

/-- `LEN_263`: Length symbol 263: base 9, 0 extra bits (R106). -/
def execLen263 (s : State) : Host.Outcome State Fault Refusal :=
  lengthElement 6 0 s

/-- `LEN_264`: Length symbol 264: base 10, 0 extra bits (R106). -/
def execLen264 (s : State) : Host.Outcome State Fault Refusal :=
  lengthElement 7 0 s

/-- `LEN_265`: Length symbol 265: base 11, 1 extra bits (R106). -/
def execLen265 (x : BitVec 1) (s : State) : Host.Outcome State Fault Refusal :=
  lengthElement 8 x.toNat s

/-- `LEN_266`: Length symbol 266: base 13, 1 extra bits (R106). -/
def execLen266 (x : BitVec 1) (s : State) : Host.Outcome State Fault Refusal :=
  lengthElement 9 x.toNat s

/-- `LEN_267`: Length symbol 267: base 15, 1 extra bits (R106). -/
def execLen267 (x : BitVec 1) (s : State) : Host.Outcome State Fault Refusal :=
  lengthElement 10 x.toNat s

/-- `LEN_268`: Length symbol 268: base 17, 1 extra bits (R106). -/
def execLen268 (x : BitVec 1) (s : State) : Host.Outcome State Fault Refusal :=
  lengthElement 11 x.toNat s

/-- `LEN_269`: Length symbol 269: base 19, 2 extra bits (R106). -/
def execLen269 (x : BitVec 2) (s : State) : Host.Outcome State Fault Refusal :=
  lengthElement 12 x.toNat s

/-- `LEN_270`: Length symbol 270: base 23, 2 extra bits (R106). -/
def execLen270 (x : BitVec 2) (s : State) : Host.Outcome State Fault Refusal :=
  lengthElement 13 x.toNat s

/-- `LEN_271`: Length symbol 271: base 27, 2 extra bits (R106). -/
def execLen271 (x : BitVec 2) (s : State) : Host.Outcome State Fault Refusal :=
  lengthElement 14 x.toNat s

/-- `LEN_272`: Length symbol 272: base 31, 2 extra bits (R106). -/
def execLen272 (x : BitVec 2) (s : State) : Host.Outcome State Fault Refusal :=
  lengthElement 15 x.toNat s

/-- `LEN_273`: Length symbol 273: base 35, 3 extra bits (R106). -/
def execLen273 (x : BitVec 3) (s : State) : Host.Outcome State Fault Refusal :=
  lengthElement 16 x.toNat s

/-- `LEN_274`: Length symbol 274: base 43, 3 extra bits (R106). -/
def execLen274 (x : BitVec 3) (s : State) : Host.Outcome State Fault Refusal :=
  lengthElement 17 x.toNat s

/-- `LEN_275`: Length symbol 275: base 51, 3 extra bits (R106). -/
def execLen275 (x : BitVec 3) (s : State) : Host.Outcome State Fault Refusal :=
  lengthElement 18 x.toNat s

/-- `LEN_276`: Length symbol 276: base 59, 3 extra bits (R106). -/
def execLen276 (x : BitVec 3) (s : State) : Host.Outcome State Fault Refusal :=
  lengthElement 19 x.toNat s

/-- `LEN_277`: Length symbol 277: base 67, 4 extra bits (R106). -/
def execLen277 (x : BitVec 4) (s : State) : Host.Outcome State Fault Refusal :=
  lengthElement 20 x.toNat s

/-- `LEN_278`: Length symbol 278: base 83, 4 extra bits (R106). -/
def execLen278 (x : BitVec 4) (s : State) : Host.Outcome State Fault Refusal :=
  lengthElement 21 x.toNat s

/-- `LEN_279`: Length symbol 279: base 99, 4 extra bits (R106). -/
def execLen279 (x : BitVec 4) (s : State) : Host.Outcome State Fault Refusal :=
  lengthElement 22 x.toNat s

/-- `LEN_280`: Length symbol 280: base 115, 4 extra bits (R106). -/
def execLen280 (x : BitVec 4) (s : State) : Host.Outcome State Fault Refusal :=
  lengthElement 23 x.toNat s

/-- `LEN_281`: Length symbol 281: base 131, 5 extra bits (R106). -/
def execLen281 (x : BitVec 5) (s : State) : Host.Outcome State Fault Refusal :=
  lengthElement 24 x.toNat s

/-- `LEN_282`: Length symbol 282: base 163, 5 extra bits (R106). -/
def execLen282 (x : BitVec 5) (s : State) : Host.Outcome State Fault Refusal :=
  lengthElement 25 x.toNat s

/-- `LEN_283`: Length symbol 283: base 195, 5 extra bits (R106). -/
def execLen283 (x : BitVec 5) (s : State) : Host.Outcome State Fault Refusal :=
  lengthElement 26 x.toNat s

/-- `LEN_284`: Length symbol 284: base 227, 5 extra bits (R106). -/
def execLen284 (x : BitVec 5) (s : State) : Host.Outcome State Fault Refusal :=
  lengthElement 27 x.toNat s

/-- `LEN_285`: Length symbol 285: base 258, 0 extra bits (R106). -/
def execLen285 (s : State) : Host.Outcome State Fault Refusal :=
  lengthElement 28 0 s


end Sys2Proof.Machine
end

