-- ==== Sys2Proof/Machine/Stored.lean ====
section
/-! DEFINITION. Block headers and stored blocks as stream elements (spec/30_encoding.md R101, R102;
spec/45_block_decoder.md R273 to R276). -/

namespace Sys2Proof.Machine

/-- `BLOCK_STORED`: a stored block's header (R273, R274). -/
def execBlockStored (bfinal : Bool) (s : State) : Host.Outcome State Fault Refusal :=
  headerElement bfinal 0 (fun t => { t with phase := .storedLen }) s

/-- `BLOCK_FIXED`: a fixed block's header (R273, R275). -/
def execBlockFixed (bfinal : Bool) (s : State) : Host.Outcome State Fault Refusal :=
  headerElement bfinal 1 State.loadFixed s

/-- `BLOCK_DYNAMIC`: a dynamic block's header (R273, R276). -/
def execBlockDynamic (bfinal : Bool) (s : State) : Host.Outcome State Fault Refusal :=
  headerElement bfinal 2 (fun t => { t with phase := .dynHdr }) s

/-- `BLOCK_RESERVED`: `InvalidBlockType`, whatever `BFINAL` is (R273). -/
def execBlockReserved (bfinal : Bool) (s : State) : Host.Outcome State Fault Refusal :=
  headerElement bfinal 3 (State.raiseDecode .invalidBlockType) s

/-- `STORED_LEN`: `LEN` and `NLEN` after the skip to a byte boundary; they must be complements (R274). -/
def execStoredLen (len : BitVec 16) (nlen : BitVec 16) (s : State) :
    Host.Outcome State Fault Refusal :=
  match s.phase with
  | .storedLen =>
    if nlen = len ^^^ 0xFFFF then
      .next { s.alignR.skip 32 with phase := .storedData len.toNat }
    else .next (s.raiseDecode .invalidStoredLength)
  | _ => .fault .elementOutOfMode

/-- `STORED_DATA`: the raw bytes are output and the block ends (R274). -/
def execStoredData (payload : List (BitVec 8)) (s : State) : Host.Outcome State Fault Refusal :=
  if s.phase = .storedData payload.length then
    .next ((s.skip (8 * payload.length)).outBytes payload).endBlock
  else .fault .elementOutOfMode


end Sys2Proof.Machine
end

