-- ==== Sys2Proof/Machine/ZlibFrame.lean ====
section
/-! DEFINITION. The zlib frame as stream elements (spec/47_framing.md R331 to R335; spec/30_encoding.md R110). -/

namespace Sys2Proof.Machine

/-- `ZLIB_HDR`: the four checks of `ReadZlibHeader()` (R335). -/
def execZlibHdr (cmf : BitVec 8) (flg : BitVec 8) (s : State) : Host.Outcome State Fault Refusal :=
  match s.phase with
  | .zlibHdr =>
    if zlibHeaderOk cmf.toNat flg.toNat then .next { s.skip 16 with phase := .blockHdr }
    else .next (s.raiseDecode .invalidHeader)
  | _ => .fault .elementOutOfMode

/-- `ZLIB_ADLER`: the trailer against the checksum of the output (R310, R333), then the end of
`DECOMPRESS` (R315). -/
def execZlibAdler (t : BitVec 32) (s : State) : Host.Outcome State Fault Refusal :=
  match s.phase with
  | .zlibAdler =>
    let a := { s.skip 32 with adler := BitVec.ofNat 32 (adlerOf s.outputBytes) }
    if t = a.adler then
      .next ({ a.dropTables with icons := a.rpos / 8, phase := .idle }).finish
    else .next (s.raiseDecode .checksumMismatch)
  | _ => .fault .elementOutOfMode


end Sys2Proof.Machine
end

