-- ==== Sys2Proof/Machine/BlockDec.lean ====
section
/-! DEFINITION. The block decoder and the stream decoder: `DECBLK` (spec/45_block_decoder.md R270) and `DECOMPRESS`
(spec/46_stream_controller.md R310), which execute the stream's elements one after the other
(spec/30_encoding.md R100). -/

namespace Sys2Proof.Machine

/-- A stream element's meaning (R100); commands are none. -/
def execElement (i : Instr) (s : State) : Host.Outcome State Fault Refusal :=
  match i with
  | .blockStored bfinal => execBlockStored bfinal s
  | .blockFixed bfinal => execBlockFixed bfinal s
  | .blockDynamic bfinal => execBlockDynamic bfinal s
  | .blockReserved bfinal => execBlockReserved bfinal s
  | .storedLen len nlen => execStoredLen len nlen s
  | .storedData payload => execStoredData payload s
  | .fixedLit0To143 sym => execFixedLit0To143 sym s
  | .fixedLit144To255 sym => execFixedLit144To255 sym s
  | .fixedEob => execFixedEob s
  | .fixedLen257To279 sym => execFixedLen257To279 sym s
  | .fixedLen280To285 sym => execFixedLen280To285 sym s
  | .fixedLL286To287 sym => execFixedLL286To287 sym s
  | .fixedDist d => execFixedDist d s
  | .dynLit sym n => execDynLit sym n s
  | .dynEob n => execDynEob n s
  | .dynLen sym n => execDynLen sym n s
  | .dynDist d n => execDynDist d n s
  | .len257 => execLen257 s
  | .len258 => execLen258 s
  | .len259 => execLen259 s
  | .len260 => execLen260 s
  | .len261 => execLen261 s
  | .len262 => execLen262 s
  | .len263 => execLen263 s
  | .len264 => execLen264 s
  | .len265 x => execLen265 x s
  | .len266 x => execLen266 x s
  | .len267 x => execLen267 x s
  | .len268 x => execLen268 x s
  | .len269 x => execLen269 x s
  | .len270 x => execLen270 x s
  | .len271 x => execLen271 x s
  | .len272 x => execLen272 x s
  | .len273 x => execLen273 x s
  | .len274 x => execLen274 x s
  | .len275 x => execLen275 x s
  | .len276 x => execLen276 x s
  | .len277 x => execLen277 x s
  | .len278 x => execLen278 x s
  | .len279 x => execLen279 x s
  | .len280 x => execLen280 x s
  | .len281 x => execLen281 x s
  | .len282 x => execLen282 x s
  | .len283 x => execLen283 x s
  | .len284 x => execLen284 x s
  | .len285 => execLen285 s
  | .dist0 => execDist0 s
  | .dist1 => execDist1 s
  | .dist2 => execDist2 s
  | .dist3 => execDist3 s
  | .dist4 x => execDist4 x s
  | .dist5 x => execDist5 x s
  | .dist6 x => execDist6 x s
  | .dist7 x => execDist7 x s
  | .dist8 x => execDist8 x s
  | .dist9 x => execDist9 x s
  | .dist10 x => execDist10 x s
  | .dist11 x => execDist11 x s
  | .dist12 x => execDist12 x s
  | .dist13 x => execDist13 x s
  | .dist14 x => execDist14 x s
  | .dist15 x => execDist15 x s
  | .dist16 x => execDist16 x s
  | .dist17 x => execDist17 x s
  | .dist18 x => execDist18 x s
  | .dist19 x => execDist19 x s
  | .dist20 x => execDist20 x s
  | .dist21 x => execDist21 x s
  | .dist22 x => execDist22 x s
  | .dist23 x => execDist23 x s
  | .dist24 x => execDist24 x s
  | .dist25 x => execDist25 x s
  | .dist26 x => execDist26 x s
  | .dist27 x => execDist27 x s
  | .dist28 x => execDist28 x s
  | .dist29 x => execDist29 x s
  | .dist30 => execDist30 s
  | .dist31 => execDist31 s
  | .dynHdr hlit hdist hclen => execDynHdr hlit hdist hclen s
  | .dynClLen v => execDynClLen v s
  | .cl0 n => execCl0 n s
  | .cl1 n => execCl1 n s
  | .cl2 n => execCl2 n s
  | .cl3 n => execCl3 n s
  | .cl4 n => execCl4 n s
  | .cl5 n => execCl5 n s
  | .cl6 n => execCl6 n s
  | .cl7 n => execCl7 n s
  | .cl8 n => execCl8 n s
  | .cl9 n => execCl9 n s
  | .cl10 n => execCl10 n s
  | .cl11 n => execCl11 n s
  | .cl12 n => execCl12 n s
  | .cl13 n => execCl13 n s
  | .cl14 n => execCl14 n s
  | .cl15 n => execCl15 n s
  | .cl16 n x => execCl16 n x s
  | .cl17 n x => execCl17 n x s
  | .cl18 n x => execCl18 n x s
  | .zlibHdr cmf flg => execZlibHdr cmf flg s
  | .zlibAdler t => execZlibAdler t s
  | .compress | .decompress | .bitinit | .wrbits | .rdbits | .alignw | .alignr | .hbuild
  | .hcanon | .hput | .hdbuild | .hdsym | .mfind | .tokenize | .encblk | .decblk
  | .adler32 | .reservedCmd _ | .zcompress | .zdecompress | .rawcompress | .rawdecompress =>
    .fault .elementOutOfMode

/-- The stream element at `RPOS` in the current decode mode (R100, R112). -/
def State.fetchElement (s : State) : Except DecodeReject Instr :=
  match decodeElem s.ctx s.streamBit s.remaining with
  | .ok (i, _) => .ok i
  | .error e => .error e

/-- One element decoded and executed, or the error its reading raises (R100, R287). -/
def elementStep (s : State) : Host.Outcome State Fault Refusal :=
  match s.fetchElement with
  | .ok i => execElement i s
  | .error (.raises e) => .next (s.raiseDecode e)
  | .error .notDecoding => .fault .elementOutOfMode

/-- Elements executed one after the other until the command has ended (R100, R112, R287). -/
def runElements : Nat → State → Host.Outcome State Fault Refusal
  | 0, s => if s.phase = .idle then .next s else .fault .decoderOutOfFuel
  | n + 1, s =>
    if s.phase = .idle then .next s
    else
      match elementStep s with
      | .next t => runElements n t
      | .fault f => .fault f
      | .refused r => .refused r

/-- An upper bound of the elements left (R288(c), R316): two per remaining bit, since of two elements in
a row at least one consumes a bit. -/
def State.elementFuel (s : State) : Nat := 2 * s.remaining + 2

/-- `DECBLK` (R270) up to its first element. -/
def State.startBlock (s : State) : State :=
  { s with phase := .blockHdr, run := ⟨false, false, 0, s.olen⟩ }

/-- `DECOMPRESS` (R310) up to its first element. -/
def State.startStream (s : State) : State :=
  { s.clearCursors with
    phase := if s.cfgFraming = 1 then .zlibHdr else .blockHdr
    run := ⟨true, false, 0, 0⟩ }

/-- `DECBLK` (R270, R271): the checks, then the elements of one block. -/
def execDecblk (s : State) : Host.Outcome State Fault Refusal :=
  if s.wbitsOk ∧ s.wpos % 8 = 0 then
    runElements s.begin.startBlock.elementFuel s.begin.startBlock
  else .next (s.begin.raise {} .invalidConfig)

/-- `DECOMPRESS` (R310, R311): the checks, then the elements of the whole stream. -/
def execDecompress (s : State) : Host.Outcome State Fault Refusal :=
  if s.decodeConfigOk then
    runElements s.begin.startStream.elementFuel s.begin.startStream
  else .next (s.begin.raise {} .invalidConfig)


end Sys2Proof.Machine
end

