-- ==== Sys2Proof/Machine/HuffEnc.lean ====
section
/-! DEFINITION. The Huffman encoder: length-limited code lengths from frequencies (`HBUILD`), canonical
codes (`HCANON`) and the writing of one codeword (`HPUT`); spec/41_huffman_encoder.md R160 to R174. -/

namespace Sys2Proof.Machine

/-- The smallest unused symbol gets frequency 1 (R162). -/
def forceOne : List Nat → List Nat
  | [] => []
  | f :: fs => if f = 0 then 1 :: fs else f :: forceOne fs

/-- `ForceTwo(f)` (R162): at least two symbols are used; the loop runs at most twice. -/
def forceTwo (f : List Nat) : List Nat :=
  let once := if (f.filter (0 < ·)).length < 2 then forceOne f else f
  if (once.filter (0 < ·)).length < 2 then forceOne once else once

/-- Inserts a symbol, higher than all listed ones, before the first of at least its frequency (R163). -/
def insertUsed (p : Nat × Nat) : List (Nat × Nat) → List (Nat × Nat)
  | [] => [p]
  | q :: qs => if p.2 ≤ q.2 then p :: q :: qs else q :: insertUsed p qs

/-- `SortUsed(g)` (R163) as (symbol, frequency) pairs: increasing frequency, then decreasing symbol.
`sym` is the first symbol of `g`, `acc` what lower symbols gave. -/
def sortUsed (sym : Nat) (acc : List (Nat × Nat)) : List Nat → List (Nat × Nat)
  | [] => acc
  | f :: fs => sortUsed (sym + 1) (if f = 0 then acc else insertUsed (sym, f) acc) fs

/-- An item of package-merge (R164): a weight and how often each leaf occurs in it. -/
structure PkgItem where
  weight : Nat
  counts : List Nat
deriving DecidableEq, Repr

/-- Leaf `j` of `k` (R164): weight `w` and the unit vector. -/
def pkgLeaf (k j w : Nat) : PkgItem :=
  ⟨w, (List.range k).map fun i => if i = j then 1 else 0⟩

/-- Packages: pairs from the front, a last odd item dropped (R164). -/
def pkgPairs : List PkgItem → List PkgItem
  | a :: b :: t => ⟨a.weight + b.weight, List.zipWith (· + ·) a.counts b.counts⟩ :: pkgPairs t
  | _ => []

/-- `Merge(A, B)` (R164): an item of `A` goes first on equal weights. -/
def pkgMerge : List PkgItem → List PkgItem → List PkgItem
  | [], bs => bs
  | a :: as, bs =>
    bs.takeWhile (fun b => b.weight < a.weight) ++
      a :: pkgMerge as (bs.dropWhile fun b => b.weight < a.weight)

/-- `cur` after a number of rounds (R164). -/
def pkgRounds (leaves : List PkgItem) : Nat → List PkgItem
  | 0 => leaves
  | n + 1 => pkgMerge leaves (pkgPairs (pkgRounds leaves n))

/-- `PackageMerge(w, L)` (R164): the code length of each position. -/
def packageMerge (w : List Nat) (maxBits : Nat) : List Nat :=
  let k := w.length
  let leaves := (w.zipIdx).map fun p => pkgLeaf k p.2 p.1
  let sel := (pkgRounds leaves (maxBits - 1)).take (2 * k - 2)
  sel.foldl (fun acc it => List.zipWith (· + ·) acc it.counts) (List.replicate k 0)

/-- `HBUILD` on a frequency table (R161): `LEN_a[0 .. NLEN)`, 0 for unused symbols and beyond `NSYM`
(R165). -/
def codeLengths (a : Alphabet) (freqs : List Nat) : List Nat :=
  let order := sortUsed 0 [] (forceTwo freqs)
  let lens := packageMerge (order.map (·.2)) a.maxBits
  let assigned := (order.map (·.1)).zip lens
  (List.range a.nlen).map fun s => (assigned.lookup s).getD 0

/-- `HBUILD` (R161). -/
def execHbuild (s : State) : Host.Outcome State Fault Refusal :=
  command {} (fun b =>
    match alphabetOf b.arg0 with
    | none => .error .invalidConfig
    | some a => .ok (b.setLens a (codeLengths a (b.freqs a)))) s

/-- `HCANON` (R170, R172): over-subscribed lengths are refused, and `LEN_a` survives that error. -/
def execHcanon (s : State) : Host.Outcome State Fault Refusal :=
  command { lens := alphabetOf s.arg0 } (fun b =>
    match alphabetOf b.arg0 with
    | none => .error .invalidConfig
    | some a =>
      if 2 ^ a.maxBits < kraftSum a.maxBits (b.lens a) then .error .invalidHuffmanCode
      else .ok (b.setCodes a (canonicalCodes a.maxBits (b.lens a)))) s

/-- `PutSym(a, s)` (R174) for a codeword and its length. -/
def State.putCode (code n : Nat) (s : State) : State := s.writeBits (revBits n code) n

/-- `HPUT` (R174): `ARG0` the alphabet, `ARG1` the symbol. -/
def execHput (s : State) : Host.Outcome State Fault Refusal :=
  command {} (fun b =>
    match alphabetOf b.arg0 with
    | none => .error .invalidConfig
    | some a =>
      let sym := b.arg1.toNat
      if a.nlen ≤ sym ∨ b.lenAt a sym = 0 then .error .invalidConfig
      else .ok (b.putCode (b.codeAt a sym) (b.lenAt a sym))) s

end Sys2Proof.Machine
end

