-- ==== Sys2Proof/Machine/Lz77.lean ====
section
/-! DEFINITION. The LZ77 match finder and tokeniser: `MFIND` and `TOKENIZE`
(spec/43_lz77_match_finder.md R210 to R222). The search is the plain scan of R214: no search structure is
state (spec/10_state.md R38, assumption log 11). -/

namespace Sys2Proof.Machine

/-- What a search depends on besides the data (R210): level, strategy and window. -/
structure MatchConfig where
  level : Nat
  strategy : Nat
  window : Nat
deriving DecidableEq, Repr

/-- The search configuration of a state (R210). -/
def State.matchConfig (s : State) : MatchConfig := ⟨s.level, s.cfgStrategy.toNat, s.window⟩

/-- A match (R213). -/
structure Match where
  len : Nat
  dist : Nat
deriving DecidableEq, Repr

/-- `MatchLen` (R215) on what follows the two positions: equal leading bytes, at most `maxlen`. -/
def matchLen : Nat → List Byte → List Byte → Nat
  | n + 1, a :: as, b :: bs => if a = b then matchLen n as bs + 1 else 0
  | _, _, _ => 0

/-- Equality of the first three bytes (R214). -/
def threeEqual : List Byte → List Byte → Bool
  | a :: b :: c :: _, x :: y :: z :: _ => a == x && b == y && c == z
  | _, _ => false

/-- The candidates among `n` positions from `c` on, `suf` being the input from `c`, as (position, input
from it), nearest to the target first (R214). -/
def scanCandidates (target : List Byte) :
    Nat → Nat → List Byte → List (Nat × List Byte) → List (Nat × List Byte)
  | 0, _, _, acc => acc
  | n + 1, c, suf, acc =>
    scanCandidates target n (c + 1) suf.tail
      (if threeEqual suf target then (c, suf) :: acc else acc)

/-- `Candidates(pos, maxdist)` (R214): under `rle` the position before `pos` alone, when the run is
there; else every earlier position of the window with the same three bytes, the first `CHAIN` of them. -/
def candidates (cfg : MatchConfig) (inp : List Byte) (pos maxdist : Nat) :
    List (Nat × List Byte) :=
  let target := inp.drop pos
  if cfg.strategy = 3 then
    if 1 ≤ maxdist ∧ threeEqual (inp.drop (pos - 1)) target then [(pos - 1, inp.drop (pos - 1))]
    else []
  else
    (scanCandidates target maxdist (pos - maxdist) (inp.drop (pos - maxdist)) []).take
      (chainDepth cfg.level)

/-- The loop of R213 over the candidates: a strictly longer match replaces the best one. -/
def bestMatch (target : List Byte) (pos maxlen : Nat) :
    List (Nat × List Byte) → Option Match → Option Match
  | [], best => best
  | (c, suf) :: cs, best =>
    let len := matchLen maxlen suf target
    let better := match best with
      | none => true
      | some m => decide (m.len < len)
    bestMatch target pos maxlen cs (if better then some ⟨len, pos - c⟩ else best)

/-- `FindMatch(pos, end)` (R213). -/
def findMatch (cfg : MatchConfig) (inp : List Byte) (pos endp : Nat) : Option Match :=
  let maxlen := min 258 (endp - pos)
  if cfg.level = 0 ∨ cfg.strategy = 2 ∨ maxlen < 3 then none
  else
    let maxdist := min pos cfg.window
    let minlen := if cfg.strategy = 1 then filteredMinLen else 3
    match bestMatch (inp.drop pos) pos maxlen (candidates cfg inp pos maxdist) none with
    | none => none
    | some m => if m.len < minlen then none else some m

/-- `Tokenize(start, end)` (R221) from `pos`: greedy matching with one step of look-ahead. Each round
advances `pos`, so `end − start` rounds are enough. -/
def tokenizeFrom (cfg : MatchConfig) (inp : List Byte) (endp : Nat) : Nat → Nat → List Token
  | 0, _ => []
  | fuel + 1, pos =>
    if endp ≤ pos then []
    else
      match findMatch cfg inp pos endp with
      | none => .lit (inp.getD pos 0) :: tokenizeFrom cfg inp endp fuel (pos + 1)
      | some m =>
        let deferred :=
          decide (pos + 1 < endp) &&
            match findMatch cfg inp (pos + 1) endp with
            | none => false
            | some m2 => decide (m.len < m2.len)
        if deferred then .lit (inp.getD pos 0) :: tokenizeFrom cfg inp endp fuel (pos + 1)
        else .copy m.len m.dist :: tokenizeFrom cfg inp endp fuel (pos + m.len)

/-- `Tokenize(start, end)` (R221). -/
def tokenizeChunk (cfg : MatchConfig) (inp : List Byte) (start endp : Nat) : List Token :=
  tokenizeFrom cfg inp endp (endp - start) start

/-- The entry of `TOK` that holds a token (R35). -/
def tokenWord : Token → BitVec 32
  | .lit b => BitVec.ofNat 32 b.toNat
  | .copy len dist => BitVec.ofNat 32 (2147483648 + len * 65536 + dist)

/-- `TOK[0 ..] <- tokens`, `NTOK <- their number` (R221). -/
def State.setTokens (ts : List Token) (s : State) : State :=
  { s with tok := s.tok.writeRun 0 (ts.map tokenWord), ntok := ts.length }

/-- `MFIND` (R212): `ARG0` the position, `ARG1` the limit. -/
def execMfind (s : State) : Host.Outcome State Fault Refusal :=
  command {} (fun b =>
    if b.configOk ∧ b.arg0.toNat ≤ b.arg1.toNat ∧ b.arg1.toNat ≤ b.ilen then
      match findMatch b.matchConfig b.inputBytes b.arg0.toNat b.arg1.toNat with
      | none => .ok { b with res0 := 0, res1 := 0 }
      | some m => .ok { b with res0 := BitVec.ofNat 32 m.len, res1 := BitVec.ofNat 32 m.dist }
    else .error .invalidConfig) s

/-- The range check of `TOKENIZE` and `ENCBLK` (R220, R240). -/
def chunkRangeOk (s : State) : Bool :=
  s.arg0.toNat ≤ s.arg1.toNat && s.arg1.toNat ≤ s.ilen && s.arg1.toNat - s.arg0.toNat ≤ chunkBytes

/-- `TOKENIZE` (R220): `ARG0` the start, `ARG1` the end. -/
def execTokenize (s : State) : Host.Outcome State Fault Refusal :=
  command {} (fun b =>
    if b.configOk ∧ chunkRangeOk b then
      .ok (b.setTokens (tokenizeChunk b.matchConfig b.inputBytes b.arg0.toNat b.arg1.toNat))
    else .error .invalidConfig) s

end Sys2Proof.Machine
end

