-- ==== Sys2Proof/Machine/BlockEnc.lean ====
section
/-! DEFINITION. The block encoder: `ENCBLK` and `EncodeBlock` (spec/44_block_encoder.md R240 to R256). A
block is computed as the list of bits it appends; `State.appendBits` is `WriteBits` of its fields one
after the other (spec/40_bitio.md R141). -/

namespace Sys2Proof.Machine

/-! ### Tokens to symbols -/

/-- A symbol with its extra bits: their number and value (R248). -/
structure SymField where
  sym : Nat
  nbits : Nat
  extra : Nat
deriving DecidableEq, Repr

/-- The largest index whose base is at most `v`, for rising bases (R248). -/
def baseIndex (bases : List Nat) (v : Nat) : Nat := (bases.takeWhile (· ≤ v)).length - 1

/-- `LenSym(len)` (R248): length 258 is always symbol 285. -/
def lenSym (len : Nat) : SymField :=
  if len = 258 then ⟨285, 0, 0⟩
  else
    let i := baseIndex lengthBases len
    ⟨257 + i, lengthExtra i, len - lengthBase i⟩

/-- `DistSym(dist)` (R248). -/
def distSym (dist : Nat) : SymField :=
  let i := baseIndex distBases dist
  ⟨i, distExtra i, dist - distBase i⟩

/-- The literal/length symbol of a token (R247). -/
def tokenSymLL : Token → Nat
  | .lit b => b.toNat
  | .copy len _ => (lenSym len).sym

/-- The distance symbol of a match (R247). -/
def tokenSymD : Token → Option Nat
  | .lit _ => none
  | .copy _ dist => some (distSym dist).sym

/-- How often each of `n` symbols occurs. -/
def symbolCounts (n : Nat) (syms : List Nat) : List Nat := (List.range n).map fun s => syms.count s

/-- `FREQ_LL` of `TokFreq()` (R247): the tokens' symbols and one end of block. -/
def tokenFreqLL (ts : List Token) : List Nat := symbolCounts 286 (256 :: ts.map tokenSymLL)

/-- `FREQ_D` of `TokFreq()` (R247). -/
def tokenFreqD (ts : List Token) : List Nat := symbolCounts 30 (ts.filterMap tokenSymD)

/-- The bits one token takes (R249). -/
def tokenSize (ll dl : List Nat) : Token → Nat
  | .lit b => ll.getD b.toNat 0
  | .copy len dist =>
    ll.getD (lenSym len).sym 0 + (lenSym len).nbits + dl.getD (distSym dist).sym 0 +
      (distSym dist).nbits

/-- `TokBits(ll, dl)` (R249). -/
def tokensSize (ll dl : List Nat) (ts : List Token) : Nat :=
  (ts.map (tokenSize ll dl)).sum + ll.getD 256 0

/-- `PutSym` (R174) as bits, for codewords and lengths given as lists. -/
def symBits (codes lens : List Nat) (s : Nat) : List Bool :=
  bitsOf (revBits (lens.getD s 0) (codes.getD s 0)) (lens.getD s 0)

/-- The bits of one token (R250). -/
def tokenBits (lc ll dc dl : List Nat) : Token → List Bool
  | .lit b => symBits lc ll b.toNat
  | .copy len dist =>
    symBits lc ll (lenSym len).sym ++ bitsOf (lenSym len).extra (lenSym len).nbits ++
      symBits dc dl (distSym dist).sym ++ bitsOf (distSym dist).extra (distSym dist).nbits

/-- `EmitTokens(ll, dl)` (R250) as bits, the end-of-block symbol last. -/
def tokensBits (ll dl : List Nat) (ts : List Token) : List Bool :=
  let lc := canonicalCodes 15 ll
  let dc := canonicalCodes 15 dl
  ts.flatMap (tokenBits lc ll dc dl) ++ symBits lc ll 256

/-! ### Stored blocks -/

/-- The pad bits before a stored block's `LEN`, for a block that starts at bit `wpos` (R245). -/
def storedPad (wpos : Nat) : Nat := (8 - (wpos + 3) % 8) % 8

/-- What follows the header of a stored block (R246), the pad's zeros included (R142). -/
def storedBits (wpos : Nat) (bytes : List Byte) : List Bool :=
  List.replicate (storedPad wpos) false ++ bitsOf bytes.length 16 ++
    bitsOf (bytes.length ^^^ 0xFFFF) 16 ++ bytes.flatMap fun b => bitsOf b.toNat 8

/-! ### Dynamic blocks -/

/-- The number of entries to send: at least `lo`, trailing zeros trimmed (R251, R253). -/
def trimmedCount (lo : Nat) (l : List Nat) : Nat :=
  max lo (l.length - (l.reverse.takeWhile (· = 0)).length)

/-- The inner loop of R252: repeats of a non-zero length, as (16, count − 3), and how many entries they
cover. -/
def clRepeats : Nat → Nat → List (Nat × Nat) × Nat
  | 0, _ => ([], 0)
  | fuel + 1, run =>
    if run < 3 then ([], 0)
    else
      let k := min run 6
      let r := clRepeats fuel (run - k)
      ((16, k - 3) :: r.1, k + r.2)

/-- `CLSeq(seq)` (R252); each round consumes an entry, so `|seq|` rounds are enough. -/
def clSequence : Nat → List Nat → List (Nat × Nat)
  | 0, _ => []
  | _, [] => []
  | fuel + 1, v :: t =>
    let run := (t.takeWhile (· = v)).length + 1
    if v = 0 then
      if 11 ≤ run then
        (18, min run 138 - 11) :: clSequence fuel ((v :: t).drop (min run 138))
      else if 3 ≤ run then (17, run - 3) :: clSequence fuel ((v :: t).drop run)
      else (0, 0) :: clSequence fuel t
    else
      let r := clRepeats run (run - 1)
      (v, 0) :: r.1 ++ clSequence fuel (t.drop r.2)

/-- What `DynPlan()` fixes (R251 to R253). -/
structure DynPlan where
  ll : List Nat
  d : List Nat
  nl : Nat
  nd : Nat
  pairs : List (Nat × Nat)
  cl : List Nat
  nc : Nat
deriving DecidableEq, Repr

/-- `DynPlan()` (R251 to R253). -/
def dynPlan (ts : List Token) : DynPlan :=
  let ll := codeLengths .ll (tokenFreqLL ts)
  let d := codeLengths .d (tokenFreqD ts)
  let nl := trimmedCount 257 ll
  let nd := trimmedCount 1 d
  let seq := ll.take nl ++ d.take nd
  let pairs := clSequence seq.length seq
  let cl := codeLengths .cl (symbolCounts 19 (pairs.map (·.1)))
  let nc := trimmedCount 4 (clOrder.map fun s => cl.getD s 0)
  ⟨ll, d, nl, nd, pairs, cl, nc⟩

/-- `DynHdrBits()` (R255). -/
def dynHeaderSize (p : DynPlan) : Nat :=
  14 + 3 * p.nc + (p.pairs.map fun q => p.cl.getD q.1 0 + clExtra q.1).sum

/-- `EmitDynHdr()` (R254) as bits. -/
def dynHeaderBits (p : DynPlan) : List Bool :=
  let cc := canonicalCodes 7 p.cl
  bitsOf (p.nl - 257) 5 ++ bitsOf (p.nd - 1) 5 ++ bitsOf (p.nc - 4) 4 ++
    ((clOrder.take p.nc).flatMap fun s => bitsOf (p.cl.getD s 0) 3) ++
    p.pairs.flatMap fun q => symBits cc p.cl q.1 ++ bitsOf q.2 (clExtra q.1)

/-! ### The block -/

/-- `CandidateTypes()` (R242): level 0 wins over the strategy `fixed`. -/
def candidateTypes (s : State) : List Nat :=
  if s.level = 0 then [0] else if s.cfgStrategy = 4 then [1] else [0, 1, 2]

/-- A block type's size in bits and what follows its header (R241). -/
structure BlockForm where
  btype : Nat
  size : Nat
  body : List Bool
deriving DecidableEq, Repr

/-- The form of a block of each type (R241, R245, R249, R255). -/
def blockForm (wpos : Nat) (bytes : List Byte) (ts : List Token) (bt : Nat) : BlockForm :=
  if bt = 0 then
    ⟨0, 3 + storedPad wpos + 32 + 8 * bytes.length, storedBits wpos bytes⟩
  else if bt = 1 then
    ⟨1, 3 + tokensSize fixedLenLL fixedLenD ts, tokensBits fixedLenLL fixedLenD ts⟩
  else
    let p := dynPlan ts
    ⟨2, 3 + dynHeaderSize p + tokensSize p.ll p.d ts, dynHeaderBits p ++ tokensBits p.ll p.d ts⟩

/-- The form of least size; among equal sizes the first, which is the least type (R241). -/
def leastForm (f : BlockForm) : List BlockForm → BlockForm
  | [] => f
  | g :: gs => leastForm (if g.size < f.size then g else f) gs

/-- What `EncodeBlock` returns (R241): the type written, the bits written, and the state. -/
structure BlockResult where
  btype : Nat
  size : Nat
  state : State
deriving DecidableEq, Repr

/-- `EncodeBlock(start, end, final, sel)` (R241) on the input bytes `inp`. -/
def encodeBlock (inp : List Byte) (start endp : Nat) (final : Bool) (sel : Nat) (s : State) :
    BlockResult :=
  let cand := if sel = 3 then candidateTypes s else [sel]
  let tokenised := cand.contains 1 || cand.contains 2
  let ts := if tokenised then tokenizeChunk s.matchConfig inp start endp else []
  let bytes := (inp.drop start).take (endp - start)
  let forms := cand.map (blockForm s.wpos bytes ts)
  let f := leastForm (forms.headD (blockForm s.wpos bytes ts 0)) forms.tail
  let t := if tokenised then s.setTokens ts else s
  let u := t.appendBits (final :: bitsOf f.btype 2 ++ f.body)
  ⟨f.btype, u.wpos - s.wpos, u⟩

/-- `ENCBLK` (R41, R240, R256): `ARG0` start, `ARG1` end, `ARG2` final, `ARG3` the type selector. -/
def execEncblk (s : State) : Host.Outcome State Fault Refusal :=
  command {} (fun b =>
    if b.configOk ∧ chunkRangeOk b ∧ b.arg2.toNat ≤ 1 ∧ b.arg3.toNat ≤ 3 then
      let r := encodeBlock b.inputBytes b.arg0.toNat b.arg1.toNat (b.arg2 == 1) b.arg3.toNat b
      .ok { r.state.dropTables with
        res0 := BitVec.ofNat 32 r.btype, res1 := BitVec.ofNat 32 r.size }
    else .error .invalidConfig) s

end Sys2Proof.Machine
end

