-- ==== Sys2Proof/Machine/Stream.lean ====
section
/-! DEFINITION. The stream controller's `COMPRESS` (spec/46_stream_controller.md R300 to R305) and the pseudo-commands
(spec/30_encoding.md R95). -/

namespace Sys2Proof.Machine

/-- The chunks of `COMPRESS` from `start` (R300, R303): one block each, the last one final. -/
def compressChunks (inp : List Byte) : Nat → Nat → State → State
  | 0, _, s => s
  | n + 1, start, s =>
    let endp := min (start + chunkBytes) s.ilen
    let final := decide (endp = s.ilen)
    let r := encodeBlock inp start endp final 3 s
    if final then r.state else compressChunks inp n endp r.state

/-- `COMPRESS` (R300 to R305) after its check. -/
def State.compressStream (s : State) : State :=
  let inp := s.inputBytes
  let framed := s.cfgFraming == 1
  let a := s.clearCursors
  let b := if framed then a.appendBits (zlibHeaderBits s.cfgWbits.toNat s.level) else a
  let c := (compressChunks inp (s.ilen / chunkBytes + 1) 0 b).alignW
  let v := adlerOf inp
  let d := if framed then { c.appendBits (adlerBits v) with adler := BitVec.ofNat 32 v } else c
  d.dropTables

/-- `COMPRESS` (R300, R301): `InvalidConfig` before any processing. -/
def execCompress (s : State) : Host.Outcome State Fault Refusal :=
  command {} (fun b => if b.configOk then .ok b.compressStream else .error .invalidConfig) s

/-- `SET CFG_FRAMING, v` (R94, R95). -/
def State.setFraming (v : BitVec 32) (s : State) : State := { s with cfgFraming := v }

/-- `ZCOMPRESS` (R95). -/
def execZcompress (s : State) : Host.Outcome State Fault Refusal := execCompress (s.setFraming 1)

/-- `ZDECOMPRESS` (R95). -/
def execZdecompress (s : State) : Host.Outcome State Fault Refusal :=
  execDecompress (s.setFraming 1)

/-- `RAWCOMPRESS` (R95). -/
def execRawcompress (s : State) : Host.Outcome State Fault Refusal :=
  execCompress (s.setFraming 0)

/-- `RAWDECOMPRESS` (R95). -/
def execRawdecompress (s : State) : Host.Outcome State Fault Refusal :=
  execDecompress (s.setFraming 0)


end Sys2Proof.Machine
end

