-- ==== Sys2Proof/Machine/Dispatch.lean ====
section
/-! DEFINITION. The meaning of every instruction, one arm each. -/

namespace Sys2Proof.Machine

def exec (i : Instr) (s : State) : Host.Outcome State Fault Refusal :=
  match i with
  | .compress => Sys2Proof.Machine.execCompress s
  | .decompress => Sys2Proof.Machine.execDecompress s
  | .bitinit => Sys2Proof.Machine.execBitinit s
  | .wrbits => Sys2Proof.Machine.execWrbits s
  | .rdbits => Sys2Proof.Machine.execRdbits s
  | .alignw => Sys2Proof.Machine.execAlignw s
  | .alignr => Sys2Proof.Machine.execAlignr s
  | .hbuild => Sys2Proof.Machine.execHbuild s
  | .hcanon => Sys2Proof.Machine.execHcanon s
  | .hput => Sys2Proof.Machine.execHput s
  | .hdbuild => Sys2Proof.Machine.execHdbuild s
  | .hdsym => Sys2Proof.Machine.execHdsym s
  | .mfind => Sys2Proof.Machine.execMfind s
  | .tokenize => Sys2Proof.Machine.execTokenize s
  | .encblk => Sys2Proof.Machine.execEncblk s
  | .decblk => Sys2Proof.Machine.execDecblk s
  | .adler32 => Sys2Proof.Machine.execAdler32 s
  | .reservedCmd op => Sys2Proof.Machine.execReservedCmd op s
  | .zcompress => Sys2Proof.Machine.execZcompress s
  | .zdecompress => Sys2Proof.Machine.execZdecompress s
  | .rawcompress => Sys2Proof.Machine.execRawcompress s
  | .rawdecompress => Sys2Proof.Machine.execRawdecompress s
  | .blockStored bfinal => Sys2Proof.Machine.execBlockStored bfinal s
  | .blockFixed bfinal => Sys2Proof.Machine.execBlockFixed bfinal s
  | .blockDynamic bfinal => Sys2Proof.Machine.execBlockDynamic bfinal s
  | .blockReserved bfinal => Sys2Proof.Machine.execBlockReserved bfinal s
  | .storedLen len nlen => Sys2Proof.Machine.execStoredLen len nlen s
  | .storedData payload => Sys2Proof.Machine.execStoredData payload s
  | .fixedLit0To143 sym => Sys2Proof.Machine.execFixedLit0To143 sym s
  | .fixedLit144To255 sym => Sys2Proof.Machine.execFixedLit144To255 sym s
  | .fixedEob => Sys2Proof.Machine.execFixedEob s
  | .fixedLen257To279 sym => Sys2Proof.Machine.execFixedLen257To279 sym s
  | .fixedLen280To285 sym => Sys2Proof.Machine.execFixedLen280To285 sym s
  | .fixedLL286To287 sym => Sys2Proof.Machine.execFixedLL286To287 sym s
  | .fixedDist d => Sys2Proof.Machine.execFixedDist d s
  | .dynLit sym n => Sys2Proof.Machine.execDynLit sym n s
  | .dynEob n => Sys2Proof.Machine.execDynEob n s
  | .dynLen sym n => Sys2Proof.Machine.execDynLen sym n s
  | .dynDist d n => Sys2Proof.Machine.execDynDist d n s
  | .len257 => Sys2Proof.Machine.execLen257 s
  | .len258 => Sys2Proof.Machine.execLen258 s
  | .len259 => Sys2Proof.Machine.execLen259 s
  | .len260 => Sys2Proof.Machine.execLen260 s
  | .len261 => Sys2Proof.Machine.execLen261 s
  | .len262 => Sys2Proof.Machine.execLen262 s
  | .len263 => Sys2Proof.Machine.execLen263 s
  | .len264 => Sys2Proof.Machine.execLen264 s
  | .len265 x => Sys2Proof.Machine.execLen265 x s
  | .len266 x => Sys2Proof.Machine.execLen266 x s
  | .len267 x => Sys2Proof.Machine.execLen267 x s
  | .len268 x => Sys2Proof.Machine.execLen268 x s
  | .len269 x => Sys2Proof.Machine.execLen269 x s
  | .len270 x => Sys2Proof.Machine.execLen270 x s
  | .len271 x => Sys2Proof.Machine.execLen271 x s
  | .len272 x => Sys2Proof.Machine.execLen272 x s
  | .len273 x => Sys2Proof.Machine.execLen273 x s
  | .len274 x => Sys2Proof.Machine.execLen274 x s
  | .len275 x => Sys2Proof.Machine.execLen275 x s
  | .len276 x => Sys2Proof.Machine.execLen276 x s
  | .len277 x => Sys2Proof.Machine.execLen277 x s
  | .len278 x => Sys2Proof.Machine.execLen278 x s
  | .len279 x => Sys2Proof.Machine.execLen279 x s
  | .len280 x => Sys2Proof.Machine.execLen280 x s
  | .len281 x => Sys2Proof.Machine.execLen281 x s
  | .len282 x => Sys2Proof.Machine.execLen282 x s
  | .len283 x => Sys2Proof.Machine.execLen283 x s
  | .len284 x => Sys2Proof.Machine.execLen284 x s
  | .len285 => Sys2Proof.Machine.execLen285 s
  | .dist0 => Sys2Proof.Machine.execDist0 s
  | .dist1 => Sys2Proof.Machine.execDist1 s
  | .dist2 => Sys2Proof.Machine.execDist2 s
  | .dist3 => Sys2Proof.Machine.execDist3 s
  | .dist4 x => Sys2Proof.Machine.execDist4 x s
  | .dist5 x => Sys2Proof.Machine.execDist5 x s
  | .dist6 x => Sys2Proof.Machine.execDist6 x s
  | .dist7 x => Sys2Proof.Machine.execDist7 x s
  | .dist8 x => Sys2Proof.Machine.execDist8 x s
  | .dist9 x => Sys2Proof.Machine.execDist9 x s
  | .dist10 x => Sys2Proof.Machine.execDist10 x s
  | .dist11 x => Sys2Proof.Machine.execDist11 x s
  | .dist12 x => Sys2Proof.Machine.execDist12 x s
  | .dist13 x => Sys2Proof.Machine.execDist13 x s
  | .dist14 x => Sys2Proof.Machine.execDist14 x s
  | .dist15 x => Sys2Proof.Machine.execDist15 x s
  | .dist16 x => Sys2Proof.Machine.execDist16 x s
  | .dist17 x => Sys2Proof.Machine.execDist17 x s
  | .dist18 x => Sys2Proof.Machine.execDist18 x s
  | .dist19 x => Sys2Proof.Machine.execDist19 x s
  | .dist20 x => Sys2Proof.Machine.execDist20 x s
  | .dist21 x => Sys2Proof.Machine.execDist21 x s
  | .dist22 x => Sys2Proof.Machine.execDist22 x s
  | .dist23 x => Sys2Proof.Machine.execDist23 x s
  | .dist24 x => Sys2Proof.Machine.execDist24 x s
  | .dist25 x => Sys2Proof.Machine.execDist25 x s
  | .dist26 x => Sys2Proof.Machine.execDist26 x s
  | .dist27 x => Sys2Proof.Machine.execDist27 x s
  | .dist28 x => Sys2Proof.Machine.execDist28 x s
  | .dist29 x => Sys2Proof.Machine.execDist29 x s
  | .dist30 => Sys2Proof.Machine.execDist30 s
  | .dist31 => Sys2Proof.Machine.execDist31 s
  | .dynHdr hlit hdist hclen => Sys2Proof.Machine.execDynHdr hlit hdist hclen s
  | .dynClLen v => Sys2Proof.Machine.execDynClLen v s
  | .cl0 n => Sys2Proof.Machine.execCl0 n s
  | .cl1 n => Sys2Proof.Machine.execCl1 n s
  | .cl2 n => Sys2Proof.Machine.execCl2 n s
  | .cl3 n => Sys2Proof.Machine.execCl3 n s
  | .cl4 n => Sys2Proof.Machine.execCl4 n s
  | .cl5 n => Sys2Proof.Machine.execCl5 n s
  | .cl6 n => Sys2Proof.Machine.execCl6 n s
  | .cl7 n => Sys2Proof.Machine.execCl7 n s
  | .cl8 n => Sys2Proof.Machine.execCl8 n s
  | .cl9 n => Sys2Proof.Machine.execCl9 n s
  | .cl10 n => Sys2Proof.Machine.execCl10 n s
  | .cl11 n => Sys2Proof.Machine.execCl11 n s
  | .cl12 n => Sys2Proof.Machine.execCl12 n s
  | .cl13 n => Sys2Proof.Machine.execCl13 n s
  | .cl14 n => Sys2Proof.Machine.execCl14 n s
  | .cl15 n => Sys2Proof.Machine.execCl15 n s
  | .cl16 n x => Sys2Proof.Machine.execCl16 n x s
  | .cl17 n x => Sys2Proof.Machine.execCl17 n x s
  | .cl18 n x => Sys2Proof.Machine.execCl18 n x s
  | .zlibHdr cmf flg => Sys2Proof.Machine.execZlibHdr cmf flg s
  | .zlibAdler t => Sys2Proof.Machine.execZlibAdler t s

end Sys2Proof.Machine
end

