-- ==== Sys2Proof/Machine/HostPort.lean ====
section
/-! DEFINITION. The host's side of the block: `HostRead` and `HostWrite` with the access rights of
spec/10_state.md R22, R42 and spec/20_memory.md R61, R69. A refused access has no step
(spec/93_implementation_defined.md U1). The value of a read goes to `hostData` (assumption log 2). -/

namespace Sys2Proof.Machine

/-- The readable registers of the CSR file (R22). -/
def State.csrRead (s : State) : Nat → Option Nat
  | 0 => some 0
  | 1 => some (statusCode s.status)
  | 2 => some (errCode s.err)
  | 3 => some s.cfgLevel.toNat
  | 4 => some s.cfgWbits.toNat
  | 5 => some s.cfgStrategy.toNat
  | 6 => some s.cfgFraming.toNat
  | 7 => some s.ilen
  | 8 => some s.olen
  | 9 => some s.icons
  | 10 => some s.rpos
  | 11 => some s.wpos
  | 12 => some s.ntok
  | 13 => some s.adler.toNat
  | 16 => some s.arg0.toNat
  | 17 => some s.arg1.toNat
  | 18 => some s.arg2.toNat
  | 19 => some s.arg3.toNat
  | 20 => some s.res0.toNat
  | 21 => some s.res1.toNat
  | 22 => some s.res2.toNat
  | 23 => some s.res3.toNat
  | _ => none

/-- A write to a register of the CSR file other than `CMD` (R22, R23); a 32-bit register keeps the low
32 bits (assumption log 19). -/
def State.csrWrite (n v : Nat) (s : State) : Except Refusal State :=
  if n = 3 then .ok { s with cfgLevel := BitVec.ofNat 32 v }
  else if n = 4 then .ok { s with cfgWbits := BitVec.ofNat 32 v }
  else if n = 5 then .ok { s with cfgStrategy := BitVec.ofNat 32 v }
  else if n = 6 then .ok { s with cfgFraming := BitVec.ofNat 32 v }
  else if n = 7 then .ok { s with ilen := v }
  else if n = 16 then .ok { s with arg0 := BitVec.ofNat 32 v }
  else if n = 17 then .ok { s with arg1 := BitVec.ofNat 32 v }
  else if n = 18 then .ok { s with arg2 := BitVec.ofNat 32 v }
  else if n = 19 then .ok { s with arg3 := BitVec.ofNat 32 v }
  else if n = 14 ∨ n = 15 ∨ 24 ≤ n then .error .reservedRegister
  else .error .readOnlyItem

/-- The number of indices of a space with a bound (R61). -/
def spaceSize : Nat → Option Nat
  | 3 => some 286
  | 4 => some 30
  | 5 => some 19
  | 6 => some 288
  | 7 => some 32
  | 8 => some 19
  | 9 => some 288
  | 10 => some 32
  | 11 => some 19
  | 12 => some 32768
  | 13 => some 32768
  | 14 => some 32768
  | 15 => some 128
  | _ => none

/-- The element of a space other than the CSR file, zero-extended (R61). A byte of `OBUF` at or beyond
`OLEN` is unspecified (R36, assumption log 17). -/
def State.spaceRead (s : State) (space i : Nat) : Nat :=
  match space with
  | 1 => (s.ibufAt i).toNat
  | 2 =>
    if i < s.olen then (s.obufAt i).toNat
    else ((Config.freeWord 2 s.obuf.tag i).setWidth 8).toNat
  | 3 => (s.freqLL.read 3 i).toNat
  | 4 => (s.freqD.read 4 i).toNat
  | 5 => (s.freqCL.read 5 i).toNat
  | 6 => s.lenAt .ll i
  | 7 => s.lenAt .d i
  | 8 => s.lenAt .cl i
  | 9 => s.codeAt .ll i
  | 10 => s.codeAt .d i
  | 11 => s.codeAt .cl i
  | 12 => (s.tok.read 12 i).toNat
  | 13 => entryWord (s.dtblLL.entry .ll i)
  | 14 => entryWord (s.dtblD.entry .d i)
  | _ => entryWord (s.dtblCL.entry .cl i)

/-- `HostRead(space, index)` (R42, R61). -/
def State.hostRead (s : State) (space i : Nat) : Except Refusal Nat :=
  if space = 0 then
    match s.csrRead i with
    | some v => .ok v
    | none => .error .reservedRegister
  else if 16 ≤ space then .error .noSuchSpace
  else
    match spaceSize space with
    | some n => if i < n then .ok (s.spaceRead space i) else .error .indexOutOfRange
    | none => .ok (s.spaceRead space i)

/-- The host's write to an element of a table or of `IBUF`; the low bits are stored (R15(b), R32). -/
def State.spaceWrite (space i v : Nat) (s : State) : State :=
  match space with
  | 1 => { s with ibuf := s.ibuf.write i (BitVec.ofNat 8 v) }
  | 3 => { s with freqLL := s.freqLL.write i (BitVec.ofNat 32 v) }
  | 4 => { s with freqD := s.freqD.write i (BitVec.ofNat 32 v) }
  | 5 => { s with freqCL := s.freqCL.write i (BitVec.ofNat 32 v) }
  | 6 => { s with lenLL := s.lenLL.write i (BitVec.ofNat 4 v) }
  | 7 => { s with lenD := s.lenD.write i (BitVec.ofNat 4 v) }
  | 8 => { s with lenCL := s.lenCL.write i (BitVec.ofNat 3 v) }
  | _ => s

/-- `HostWrite(space, index, value)` (R42, R61) but for a write of `CMD`, which is a command. -/
def State.hostWrite (space i v : Nat) (s : State) : Except Refusal State :=
  if space = 0 then s.csrWrite i v
  else if 16 ≤ space then .error .noSuchSpace
  else if space = 2 ∨ 9 ≤ space then .error .readOnlyItem
  else
    match spaceSize space with
    | some n => if i < n then .ok (s.spaceWrite space i v) else .error .indexOutOfRange
    | none => .ok (s.spaceWrite space i v)

/-- One host transaction that starts no command (R42, R69). -/
def hostAccess (t : HostTxn) (s : State) : Host.Outcome State Fault Refusal :=
  match t with
  | .write space i v =>
    match s.hostWrite space i v with
    | .ok u => .next u
    | .error r => .refused r
  | .read space i =>
    match s.hostRead space i with
    | .ok v => .next { s with hostData := v }
    | .error r => .refused r

/-- `s` with a byte that holds a block header at the end of its input, the read cursor at it, and a
`DECBLK` at its first element (assumption log 8). -/
def State.placeHeader (b : BitVec 8) (s : State) : State :=
  { s with
    status := .busy, err := none
    ibuf := s.ibuf.write s.ilen b, ilen := s.ilen + 1, rpos := 8 * s.ilen
    phase := .blockHdr, run := ⟨false, false, 0, s.olen⟩ }

/-- `s` with a write of `CMD` as the host's next transaction (R92). -/
def State.placeCommand (b : BitVec 8) (s : State) : State :=
  { s with
    status := if s.status = .busy then .idle else s.status
    phase := .idle, host := .write 0 0 b.toNat :: s.host }

end Sys2Proof.Machine
end

