-- ==== Sys2Proof/Machine/Step.lean ====
section
/-! DEFINITION. One step of the machine (spec/10_state.md R20, R42; spec/30_encoding.md R92, R100): inside
a decode command the stream element at `RPOS`; otherwise the host's next transaction, which is a command
when it writes `CMD`; with none pending the core waits (spec/20_memory.md R62). -/

namespace Sys2Proof.Machine

/-- One step. -/
def step (s : State) : Host.Outcome State Fault Refusal :=
  if s.phase = .idle then
    if s.host = [] then .next s
    else if s.status = .busy then .refused .busyAccess
    else
      match decodeHost s.host with
      | some (i, rest) => exec i { s with host := rest }
      | none =>
        match s.host with
        | t :: rest => hostAccess t { s with host := rest }
        | [] => .next s
  else
    match s.fetchElement with
    | .ok i => exec i s
    | .error (.raises e) => .next (s.raiseDecode e)
    | .error .notDecoding => .fault .elementOutOfMode

/-- `s` with the table word `w` where `step` fetches its next instruction (assumption log 8): a block
header stands in the stream, any other byte is the host's next write of `CMD`. -/
def State.withFetchWord (s : State) (_nbits w : Nat) : State :=
  if isHeaderByte (BitVec.ofNat 8 w) then s.placeHeader (BitVec.ofNat 8 w)
  else s.placeCommand (BitVec.ofNat 8 w)

end Sys2Proof.Machine
end

