-- ==== Sys2Proof/Safety.lean ====
section
/-! DEFINITION. What a coherent state is and what counts as a safe run, in the terms claims use
(spec/10_state.md R22 to R36; spec/20_memory.md R61; spec/30_encoding.md R92, R112;
spec/60_exceptions.md R354, R359), and the spec's own loops as claims refer to them. -/

namespace Sys2Proof.Machine

/-- The counts a decode mode carries lie in the ranges of R102, R106 to R109. -/
def phaseOk : Phase → Bool
  | .storedData len => len ≤ 65535
  | .dynClLen nl nd nc j => 257 ≤ nl && nl ≤ 286 && 1 ≤ nd && nd ≤ 30 && nc ≤ 19 && j < nc
  | .dynLens nl nd seq =>
    257 ≤ nl && nl ≤ 286 && 1 ≤ nd && nd ≤ 30 && seq.length < nl + nd && seq.all (· ≤ 15)
  | .lenExtra _ sym => 257 ≤ sym && sym ≤ 285
  | .distCode _ length => 3 ≤ length && length ≤ 258
  | .distExtra _ length dsym => 3 ≤ length && length ≤ 258 && dsym ≤ 31
  | .idle | .zlibHdr | .blockHdr | .storedLen | .dynHdr | .data _ | .zlibAdler => true

/-- Every space is in canonical form and within the index range of R61. -/
def State.memoriesOk (s : State) : Bool :=
  s.ibuf.wf && s.obuf.wf &&
    (s.freqLL.wf && s.freqLL.below 286) && (s.freqD.wf && s.freqD.below 30) &&
    (s.freqCL.wf && s.freqCL.below 19) && (s.lenLL.wf && s.lenLL.below 288) &&
    (s.lenD.wf && s.lenD.below 32) && (s.lenCL.wf && s.lenCL.below 19) &&
    (s.codeLL.wf && s.codeLL.below 288) && (s.codeD.wf && s.codeD.below 32) &&
    (s.codeCL.wf && s.codeCL.below 19) && (s.tok.wf && s.tok.below 32768)

/-- `STATUS`, `ERR` and the decode mode agree (R22, R25, R92): `ERR` is set exactly in `ERROR`, and a
decode mode is current exactly while `BUSY`. -/
def State.flagsOk (s : State) : Bool :=
  (s.status == .error) == s.err.isSome && (s.status == .busy) == (s.phase != .idle)

/-- The invariant of the machine. Inside a decode command output is appended by whole bytes (R68). -/
def State.inv (s : State) : Bool :=
  s.memoriesOk && s.flagsOk && decide (s.ntok ≤ 32768) && phaseOk s.phase &&
    (s.phase == .idle || s.wpos % 8 == 0)

/-- A step that does not stop with a fault. -/
def safeStep (s : State) : Prop := ∀ r, step s ≠ .fault r

/-! ### Decode tables -/

/-- Whether a table is what a successful `BuildDecoder` left (R190). -/
def tableBuilt : DecTable → Bool
  | .built _ => true
  | .unspecified _ => false

/-- The form a successful `BuildDecoder(a)` leaves (R171, R191): codewords of legal lengths, in symbol
order, no one a prefix of another as they arrive. -/
def tableOk (a : Alphabet) : DecTable → Bool
  | .unspecified _ => true
  | .built rows =>
    rows.all (fun r =>
      1 ≤ r.len && r.len ≤ a.maxBits && r.pattern < 2 ^ r.len && r.sym < a.nlen) &&
    decide (rows.Pairwise fun r q => r.sym < q.sym ∧
      r.pattern % 2 ^ min r.len q.len ≠ q.pattern % 2 ^ min r.len q.len)

/-- The tables are well formed, and where a decode mode reads one, that one is the current block's: the
fixed code's tables (R275), or built from a transmitted code (R277, R279). -/
def ctxOk (c : StreamCtx) : Bool :=
  tableOk .ll c.ll && tableOk .d c.d && tableOk .cl c.cl &&
    match c.phase with
    | .dynLens _ _ _ => tableBuilt c.cl
    | .data .fixed | .lenExtra .fixed _ | .distCode .fixed _ | .distExtra .fixed _ _ =>
      c.ll == fixedTable .ll && c.d == fixedTable .d
    | .data .dynamic | .lenExtra .dynamic _ | .distCode .dynamic _ | .distExtra .dynamic _ _ =>
      tableBuilt c.ll && tableBuilt c.d
    | .idle | .zlibHdr | .blockHdr | .storedLen | .storedData _ | .dynHdr | .dynClLen _ _ _ _
    | .zlibAdler => true

/-- A table that is not unspecified is the one `BuildDecoder(a)` leaves for some accepted lengths of the
alphabet (R191, R192). -/
def tableFromLens (a : Alphabet) (t : DecTable) : Prop :=
  tableBuilt t = true →
    ∃ lens : List Nat, lens.length = a.nlen ∧ (∀ n ∈ lens, n ≤ a.maxBits) ∧
      codeAccepted a lens = true ∧ t = builtTable a lens

/-- `DTBL_a` is the table of the lengths `LEN_a` holds (R191). -/
def State.tableOfLens (s : State) (a : Alphabet) : Prop := s.dtbl a = builtTable a (s.lens a)

/-- Every table comes from accepted lengths, and where a decode mode reads one, that one is the current
block's: the fixed code's (R275), or the one of the transmitted lengths, which `LEN_a` holds (R277,
R279). -/
def State.tablesFromLens (s : State) : Prop :=
  (tableFromLens .ll s.dtblLL ∧ tableFromLens .d s.dtblD ∧ tableFromLens .cl s.dtblCL) ∧
    match s.phase with
    | .dynLens _ _ _ => s.tableOfLens .cl
    | .data .fixed | .lenExtra .fixed _ | .distCode .fixed _ | .distExtra .fixed _ _ =>
      s.dtblLL = fixedTable .ll ∧ s.dtblD = fixedTable .d
    | .data .dynamic | .lenExtra .dynamic _ | .distCode .dynamic _ | .distExtra .dynamic _ _ =>
      s.tableOfLens .ll ∧ s.tableOfLens .d
    | .idle | .zlibHdr | .blockHdr | .storedLen | .storedData _ | .dynHdr | .dynClLen _ _ _ _
    | .zlibAdler => True

/-! ### Errors -/

/-- What every error but `InvalidConfig` leaves alone (R359): everything but the flags and the items
that become unspecified. -/
def keptAfterError (e : HwError) (s t : State) : Prop :=
  t = { s with
    status := .error, err := some e
    rpos := t.rpos, wpos := t.wpos, icons := t.icons, adler := t.adler, obuf := t.obuf
    lenLL := t.lenLL, lenD := t.lenD, lenCL := t.lenCL
    dtblLL := t.dtblLL, dtblD := t.dtblD, dtblCL := t.dtblCL, fresh := t.fresh }

/-- The same for an error inside `DECBLK` or `DECOMPRESS`, which also ends the decode mode. -/
def keptAfterDecodeError (e : HwError) (s t : State) : Prop :=
  keptAfterError e { s with phase := .idle, run := t.run } t

/-- What the rule of the running decode command keeps besides (assumption log 5): `DECBLK` the bytes of
its former output (R270), a raw `DECOMPRESS` the register `ADLER` (R310, R330). -/
def keptByDecodeCommand (s t : State) : Prop :=
  (s.run.whole = false → ∀ a v, a < s.run.base → findCell s.obuf.cells a = some v → t.obufAt a = v) ∧
    (s.run.whole = true → s.cfgFraming ≠ 1 → t.adler = s.adler)

/-- The matrix of R354: the errors a command can raise. A pseudo-command has its command's row, with its
framing (R95). Stream elements are no commands. -/
def allowedErrors (framed : Bool) : Instr → List HwError
  | .compress | .zcompress | .rawcompress | .wrbits | .hbuild | .hput | .mfind | .tokenize | .encblk
  | .reservedCmd _ => [.invalidConfig]
  | .rdbits => [.invalidConfig, .truncatedInput]
  | .hcanon | .hdbuild => [.invalidConfig, .invalidHuffmanCode]
  | .hdsym => [.invalidConfig, .truncatedInput, .invalidHuffmanCode]
  | .decblk =>
    [.invalidConfig, .truncatedInput, .invalidBlockType, .invalidStoredLength, .invalidHuffmanCode,
      .windowSizeExceeded]
  | .decompress =>
    [.invalidConfig, .truncatedInput, .invalidBlockType, .invalidStoredLength, .invalidHuffmanCode,
      .windowSizeExceeded] ++ if framed then [.invalidHeader, .checksumMismatch] else []
  | .zdecompress =>
    [.truncatedInput, .invalidConfig, .invalidBlockType, .invalidStoredLength, .invalidHuffmanCode,
      .windowSizeExceeded, .invalidHeader, .checksumMismatch]
  | .rawdecompress =>
    [.truncatedInput, .invalidConfig, .invalidBlockType, .invalidStoredLength, .invalidHuffmanCode,
      .windowSizeExceeded]
  | _ => []

/-! ### Reference forms of the spec's own loops -/

/-- The loop of `WriteBits(v, n)` as R141 writes it: from bit `i` on, `n` bits, one byte access each. -/
def writeBitLoop (v : Nat) : Nat → Nat → State → State
  | _, 0, s => s
  | i, n + 1, s =>
    let b := (v >>> i) % 2
    let byte := s.wpos / 8
    let off := s.wpos % 8
    let stored :=
      if off = 0 then BitVec.ofNat 8 b else s.obufAt byte ||| BitVec.ofNat 8 (b <<< off)
    writeBitLoop v (i + 1) n { s with obuf := s.obuf.write byte stored, wpos := s.wpos + 1 }

/-- A sequence of `ReadBits` (R143, R151). -/
def readFields : List Nat → State → Option (List Nat)
  | [], _ => some []
  | n :: ns, s =>
    match s.readBits n with
    | none => none
    | some (v, t) => (readFields ns t).map (v :: ·)

/-- A token appended to the bytes before it (R223(a), R74): a match copies byte by byte. -/
def expandToken (out : List Byte) : Token → List Byte
  | .lit b => out ++ [b]
  | .copy len dist =>
    (List.range len).foldl (fun o _ => o ++ [o.getD (o.length - dist) 0]) out

/-- The bytes a token list stands for, after a history (R223(a)). -/
def expandTokens (history : List Byte) (ts : List Token) : List Byte :=
  ts.foldl expandToken history

/-- A code-length symbol with its extra value, appended to the lengths before it (R109): the length itself,
repeats of the last one, or zeros. -/
def expandPair (lens : List Nat) (p : Nat × Nat) : List Nat :=
  lens ++
    if p.1 ≤ 15 then [p.1]
    else if p.1 = 16 then List.replicate (3 + p.2) (lens.getLastD 0)
    else if p.1 = 17 then List.replicate (3 + p.2) 0
    else List.replicate (11 + p.2) 0

/-- `k` is `MatchLen(c, pos, maxlen)` (R215): the largest count of equal bytes, at most `maxlen`. -/
def isMatchLen (inp : List Byte) (c pos maxlen k : Nat) : Bool :=
  decide (k ≤ maxlen ∧ (∀ j < k, inp.getD (c + j) 0 = inp.getD (pos + j) 0) ∧
    (k < maxlen → inp.getD (c + k) 0 ≠ inp.getD (pos + k) 0))

/-- `c` is a candidate of R214, before the list is cut: an earlier position of the window with the same
three bytes; under `rle` the position before `pos` alone. -/
def isCandidate (cfg : MatchConfig) (inp : List Byte) (pos c : Nat) : Bool :=
  decide (c < pos ∧ pos - c ≤ cfg.window ∧ (cfg.strategy = 3 → c + 1 = pos) ∧
    inp.getD c 0 = inp.getD pos 0 ∧ inp.getD (c + 1) 0 = inp.getD (pos + 1) 0 ∧
    inp.getD (c + 2) 0 = inp.getD (pos + 2) 0)

/-- `c` is among the first `CHAIN[level]` candidates, nearest first (R214), for levels 1 to 9. -/
def isExamined (cfg : MatchConfig) (inp : List Byte) (pos c : Nat) : Bool :=
  isCandidate cfg inp pos c &&
    decide (((List.range pos).filter fun d => c < d && isCandidate cfg inp pos d).length <
      [4, 8, 16, 32, 64, 128, 256, 1024, 4096].getD (cfg.level - 1) 0)

/-- A word is the entry of `TOK` for a token, bit field by bit field (R35). -/
def tokenFields (w : BitVec 32) : Token → Prop
  | .lit b => w.getLsbD 31 = false ∧ w.extractLsb' 0 8 = b ∧ w.extractLsb' 8 23 = 0
  | .copy len dist =>
    w.getLsbD 31 = true ∧ (w.extractLsb' 16 9).toNat = len ∧ (w.extractLsb' 0 16).toNat = dist ∧
      w.extractLsb' 25 6 = 0

/-- What the host reads: each register by its number (R22, R351), each space by its id (R61), and an
entry of a decode table as `sym` in bits 12:4 and `len` in bits 3:0 (R34). -/
structure HostReads (s : State) : Prop where
  cmd : s.hostRead 0 0 = .ok 0
  status : s.hostRead 0 1 =
    .ok (match s.status with | .idle => 0 | .busy => 1 | .done => 2 | .error => 3)
  err : s.hostRead 0 2 =
    .ok (match s.err with
      | none => 0
      | some .invalidConfig => 1
      | some .truncatedInput => 2
      | some .invalidBlockType => 3
      | some .invalidStoredLength => 4
      | some .invalidHuffmanCode => 5
      | some .windowSizeExceeded => 6
      | some .invalidHeader => 7
      | some .checksumMismatch => 8)
  config : s.hostRead 0 3 = .ok s.cfgLevel.toNat ∧ s.hostRead 0 4 = .ok s.cfgWbits.toNat ∧
    s.hostRead 0 5 = .ok s.cfgStrategy.toNat ∧ s.hostRead 0 6 = .ok s.cfgFraming.toNat
  counts : s.hostRead 0 7 = .ok s.ilen ∧ s.hostRead 0 8 = .ok ((s.wpos + 7) / 8) ∧
    s.hostRead 0 9 = .ok s.icons ∧ s.hostRead 0 10 = .ok s.rpos ∧ s.hostRead 0 11 = .ok s.wpos ∧
    s.hostRead 0 12 = .ok s.ntok ∧ s.hostRead 0 13 = .ok s.adler.toNat
  args : s.hostRead 0 16 = .ok s.arg0.toNat ∧ s.hostRead 0 17 = .ok s.arg1.toNat ∧
    s.hostRead 0 18 = .ok s.arg2.toNat ∧ s.hostRead 0 19 = .ok s.arg3.toNat
  results : s.hostRead 0 20 = .ok s.res0.toNat ∧ s.hostRead 0 21 = .ok s.res1.toNat ∧
    s.hostRead 0 22 = .ok s.res2.toNat ∧ s.hostRead 0 23 = .ok s.res3.toNat
  ibuf : ∀ i, s.hostRead 1 i = .ok (s.ibufAt i).toNat
  obuf : ∀ i < s.olen, s.hostRead 2 i = .ok (s.obufAt i).toNat
  freqs : (∀ i < 286, s.hostRead 3 i = .ok (s.freqLL.read 3 i).toNat) ∧
    (∀ i < 30, s.hostRead 4 i = .ok (s.freqD.read 4 i).toNat) ∧
    ∀ i < 19, s.hostRead 5 i = .ok (s.freqCL.read 5 i).toNat
  lens : (∀ i < 288, s.hostRead 6 i = .ok (s.lenAt .ll i)) ∧
    (∀ i < 32, s.hostRead 7 i = .ok (s.lenAt .d i)) ∧
    ∀ i < 19, s.hostRead 8 i = .ok (s.lenAt .cl i)
  codes : (∀ i < 288, s.hostRead 9 i = .ok (s.codeAt .ll i)) ∧
    (∀ i < 32, s.hostRead 10 i = .ok (s.codeAt .d i)) ∧
    ∀ i < 19, s.hostRead 11 i = .ok (s.codeAt .cl i)
  tok : ∀ i < 32768, s.hostRead 12 i = .ok (s.tok.read 12 i).toNat
  dtbl : ∀ a i, i < 2 ^ a.maxBits → ((s.dtbl a).entry a i).2 < 16 →
    ∃ w, s.hostRead (match a with | .ll => 13 | .d => 14 | .cl => 15) i = .ok w ∧
      w / 16 = ((s.dtbl a).entry a i).1 ∧ w % 16 = ((s.dtbl a).entry a i).2

/-- The element width of a space or register that the host can write (R22, R61); `none` for a register
without a bound. -/
def hostWidth (space index : Nat) : Option Nat :=
  if space = 0 then (if index = 7 then none else some 32)
  else if space = 1 then some 8
  else if space ≤ 5 then some 32
  else if space = 8 then some 3
  else some 4

/-- At most `n` steps of the machine, up to the end of the running decode command (R100). -/
def runSteps : Nat → State → Host.Outcome State Fault Refusal
  | 0, s => .next s
  | n + 1, s =>
    if s.phase = .idle then .next s
    else
      match step s with
      | .next t => runSteps n t
      | .fault f => .fault f
      | .refused r => .refused r

end Sys2Proof.Machine
end

