-- ==== Sys2Proof/Certificates/Slice0/Obligations.lean ====
section
/-! DEFINITION. The statements about the model, in the order of OBLIGATIONS.json. A frame is written
`t = { s with … }`: every field it does not name is as before. Where a field is given as `t`'s own, the
clauses after it, or the rule's word "unspecified", say what it holds. -/

section Statements

open Sys2Proof Sys2Proof.Machine

/-! ### Reset and the invariants of every step -/

/-- R40: the state after reset; every table and buffer lists no element that something has written. -/
def Obligations.ResetState : Prop :=
  let s := State.reset
  (s.status = .idle ∧ s.err = none ∧ s.cfgLevel.toInt = -1 ∧ s.cfgWbits = 15 ∧ s.cfgStrategy = 0 ∧
    s.cfgFraming = 0 ∧ s.ilen = 0 ∧ s.rpos = 0 ∧ s.wpos = 0 ∧ s.olen = 0 ∧ s.icons = 0 ∧
    s.ntok = 0 ∧ s.adler = 1) ∧
  (s.arg0 = 0 ∧ s.arg1 = 0 ∧ s.arg2 = 0 ∧ s.arg3 = 0 ∧ s.res0 = 0 ∧ s.res1 = 0 ∧ s.res2 = 0 ∧
    s.res3 = 0) ∧
  (s.freqLL.cells = [] ∧ s.freqD.cells = [] ∧ s.freqCL.cells = [] ∧ s.lenLL.cells = [] ∧
    s.lenD.cells = [] ∧ s.lenCL.cells = [] ∧ s.codeLL.cells = [] ∧ s.codeD.cells = [] ∧
    s.codeCL.cells = [] ∧ s.tok.cells = [] ∧ s.ibuf.cells = [] ∧ s.obuf.cells = []) ∧
  tableBuilt s.dtblLL = false ∧ tableBuilt s.dtblD = false ∧ tableBuilt s.dtblCL = false

/-- The state after reset meets the invariants. -/
def Obligations.ResetKeepsInvariants : Prop :=
  State.reset.inv = true ∧ ctxOk State.reset.ctx = true ∧ State.reset.tablesFromLens

/-- Every step keeps the invariant: canonical memories within their index ranges (R61), flags that
agree (R22, R25, R92), at most 32768 tokens (R35), a legal decode mode (R112), whole output bytes (R68). -/
def Obligations.StepKeepsInvariant : Prop :=
  ∀ s t : State, s.inv = true → step s = .next t → t.inv = true

/-- Every step keeps the decode tables well formed (legal lengths, symbol order, no codeword that starts
another: R171, R191), and keeps each one the table of some accepted lengths, with the current block's
loaded while it is decoded: the fixed code's, or the ones of the lengths transmitted (R112, R275, R277,
R279). -/
def Obligations.StepKeepsDecodeTables : Prop :=
  ∀ s t : State, s.inv = true → step s = .next t →
    (ctxOk s.ctx = true → ctxOk t.ctx = true) ∧ (s.tablesFromLens → t.tablesFromLens)

/-- No step of any state stops with a fault: the element decoded is always one of the current mode, and
`DECBLK` and `DECOMPRESS` end (R288(c), R316). -/
def Obligations.StepNeverFaults : Prop := ∀ s : State, safeStep s

/-- R26: the read cursor stays within the input, for every step that leaves `ILEN` alone. -/
def Obligations.StepKeepsReadCursor : Prop :=
  ∀ s t : State, s.inv = true → ctxOk s.ctx = true → s.rpos ≤ 8 * s.ilen → step s = .next t →
    t.ilen = s.ilen → t.rpos ≤ 8 * t.ilen

/-! ### The step and the host -/

/-- Inside a decode command the step executes the element at the cursor, or takes the error its reading
raises (R100, R287). -/
def Obligations.StepRunsElement : Prop :=
  ∀ s : State, s.phase ≠ .idle →
    (∀ i n, decodeElem s.ctx s.streamBit s.remaining = .ok (i, n) → step s = exec i s) ∧
    ∀ e, decodeElem s.ctx s.streamBit s.remaining = .error (.raises e) →
      step s = .next (s.raiseDecode e)

/-- Between commands the step executes the command the host's transactions spell, with them taken off
the queue; a transaction that starts no command is performed (R42, R69); with none pending the core waits
(R62, R92). -/
def Obligations.StepRunsCommand : Prop :=
  ∀ s : State, s.phase = .idle →
    (∀ i rest, s.status ≠ .busy → decodeHost s.host = some (i, rest) →
      step s = exec i { s with host := rest }) ∧
    (∀ x rest, s.status ≠ .busy → s.host = x :: rest → decodeHost s.host = none →
      step s = hostAccess x { s with host := rest }) ∧
    (s.host = [] → step s = .next s)

/-- R95: a pseudo-command is its command with `CFG_FRAMING` set, and one step of it does what the two
host transactions do one after the other. -/
def Obligations.PseudoCommands : Prop :=
  ∀ s : State,
    exec .zcompress s = exec .compress { s with cfgFraming := 1 } ∧
    exec .zdecompress s = exec .decompress { s with cfgFraming := 1 } ∧
    exec .rawcompress s = exec .compress { s with cfgFraming := 0 } ∧
    exec .rawdecompress s = exec .decompress { s with cfgFraming := 0 } ∧
    ∀ f op rest u, (f = 0 ∨ f = 1) → (op = 1 ∨ op = 2) → s.phase = .idle → s.status ≠ .busy →
      s.host = .write 0 6 f :: .write 0 0 op :: rest →
      hostAccess (.write 0 6 f) { s with host := .write 0 0 op :: rest } = .next u →
      step s = step u

/-- The host may write registers 3 to 7 and 16 to 19, `IBUF` and spaces 3 to 8, and read every register
and space, whose values `HostReads` lists (R22, R34, R351); an accepted write is performed and read back, truncated to the element's width, and no other
register or element reads differently; a read changes nothing (R22, R30, R32, R61, R69). -/
def Obligations.HostWriteThenRead : Prop :=
  (∀ (s t : State) (sp i v : Nat), s.hostWrite sp i v = .ok t →
    t.hostRead sp i =
      .ok (match hostWidth sp i with | some w => v % 2 ^ w | none => v) ∧
    ∀ sp' i', (sp', i') ≠ (sp, i) → t.hostRead sp' i' = s.hostRead sp' i') ∧
  (∀ (s t : State) (sp i v : Nat), s.hostWrite sp i v = .ok t →
    hostAccess (.write sp i v) s = .next t) ∧
  (∀ (s : State) (sp i v : Nat), s.hostRead sp i = .ok v →
    hostAccess (.read sp i) s = .next { s with hostData := v }) ∧
  (∀ (s : State) (sp i v : Nat),
    (sp = 0 ∧ ((3 ≤ i ∧ i ≤ 7) ∨ (16 ≤ i ∧ i ≤ 19))) ∨ sp = 1 ∨
      (3 ≤ sp ∧ sp ≤ 8 ∧ ∃ n, spaceSize sp = some n ∧ i < n) → ∃ t, s.hostWrite sp i v = .ok t) ∧
  (∀ (s : State) (sp i : Nat),
    (sp = 0 ∧ (i ≤ 13 ∨ (16 ≤ i ∧ i ≤ 23))) ∨ sp = 1 ∨ sp = 2 ∨
      (∃ n, spaceSize sp = some n ∧ i < n) → ∃ v, s.hostRead sp i = .ok v) ∧
  ∀ s : State, HostReads s

/-- R42: the accesses that are refused: reserved registers, indices and spaces that do not exist, writes
to read-only items, and any access while `BUSY`. -/
def Obligations.HostAccessRefused : Prop :=
  (∀ (s : State) (i v : Nat), (i = 14 ∨ i = 15 ∨ 24 ≤ i) →
    s.hostRead 0 i = .error .reservedRegister ∧ s.hostWrite 0 i v = .error .reservedRegister) ∧
  (∀ (s : State) (sp i v : Nat), 16 ≤ sp →
    s.hostRead sp i = .error .noSuchSpace ∧ s.hostWrite sp i v = .error .noSuchSpace) ∧
  (∀ (s : State) (sp i n : Nat), spaceSize sp = some n → n ≤ i →
    s.hostRead sp i = .error .indexOutOfRange) ∧
  (∀ (s : State) (sp i n v : Nat), spaceSize sp = some n → sp ≤ 8 → n ≤ i →
    s.hostWrite sp i v = .error .indexOutOfRange) ∧
  (∀ (s : State) (i v : Nat), (i = 1 ∨ i = 2 ∨ (8 ≤ i ∧ i ≤ 13) ∨ (20 ≤ i ∧ i ≤ 23)) →
    s.hostWrite 0 i v = .error .readOnlyItem) ∧
  (∀ (s : State) (sp i v : Nat), (sp = 2 ∨ (9 ≤ sp ∧ sp ≤ 15)) →
    s.hostWrite sp i v = .error .readOnlyItem) ∧
  (∀ (s : State) (x : HostTxn) (r : Refusal),
    (match x with
      | .write sp i v => s.hostWrite sp i v = .error r
      | .read sp i => s.hostRead sp i = .error r) → hostAccess x s = .refused r) ∧
  ∀ s : State, s.phase = .idle → s.host ≠ [] → s.status = .busy → step s = .refused .busyAccess

/-! ### Encodings -/

/-- Decoding the bits of any well-formed stream element gives the element back, whatever stands before
and after them in the stream. (`CL_16` first is the one illegal position, R278.) -/
def Obligations.ElementDecodeEncode : Prop :=
  ∀ (c : StreamCtx) (i : Instr) (bits : List Bool) (bit : Nat → Bool) (rem : Nat),
    ctxOk c = true → c.phase.admits i = true → i.wellFormed = true →
    (∀ n x nl nd, i = .cl16 n x → c.phase ≠ .dynLens nl nd []) →
    encodeElem c i = some bits → bits.length ≤ rem →
    (∀ k (h : k < bits.length), bit k = bits[k]) →
    decodeElem c bit rem = .ok (i, bits.length)

/-- Decoding the host transactions of any command or pseudo-command gives it back; the reserved opcodes
are exactly those R93 lists; `CMD` bits above 7 are ignored (R90). -/
def Obligations.CommandDecodeEncode : Prop :=
  (∀ (i : Instr) (txns rest : List HostTxn), i.wellFormed = true → encodeHost i = some txns →
    decodeHost (txns ++ rest) = some (i, rest)) ∧
  (∀ op : BitVec 8, decodeOpcode op = .reservedCmd op ↔
    (op.toNat = 0 ∨ (0x03 ≤ op.toNat ∧ op.toNat ≤ 0x0F) ∨ (0x15 ≤ op.toNat ∧ op.toNat ≤ 0x1F) ∨
      (0x23 ≤ op.toNat ∧ op.toNat ≤ 0x27) ∨ (0x2A ≤ op.toNat ∧ op.toNat ≤ 0x2F) ∨
      (0x32 ≤ op.toNat ∧ op.toNat ≤ 0x3F) ∨ (0x41 ≤ op.toNat ∧ op.toNat ≤ 0x47) ∨
      (0x49 ≤ op.toNat ∧ op.toNat ≤ 0x4F) ∨ 0x51 ≤ op.toNat)) ∧
  ∀ (v : Nat) (rest : List HostTxn),
    decodeHost (.write 0 0 v :: rest) = decodeHost (.write 0 0 (v % 256) :: rest)

/-- A few words written out from the spec: opcodes of R91, the headers of R101, the codewords of R258's
`a`, `MATCH 6,3` and end of block, and extra bits of R106, R107 and R109. -/
def Obligations.DecodedWords : Prop :=
  let bits (l : List Bool) : Nat → Bool := fun k => l.getD k false
  let o := false
  let x := true
  let fixedCtx (p : Phase) : StreamCtx := ⟨p, 3, fixedTable .ll, fixedTable .d, .built []⟩
  decodeOpcode 0x01 = .compress ∧ decodeOpcode 0x48 = .decblk ∧ decodeOpcode 0x50 = .adler32 ∧
  decodeElem headerCtx (bits [x, x, o]) 3 = .ok (.blockFixed true, 3) ∧
  decodeElem headerCtx (bits [o, o, x]) 3 = .ok (.blockDynamic false, 3) ∧
  decodeElem headerCtx (bits [x, x, x]) 3 = .ok (.blockReserved true, 3) ∧
  decodeElem (fixedCtx (.data .fixed)) (bits [x, o, o, x, o, o, o, x]) 8 =
    .ok (.fixedLit0To143 0x61, 8) ∧
  decodeElem (fixedCtx (.data .fixed)) (bits [o, o, o, o, x, o, o]) 7 =
    .ok (.fixedLen257To279 260, 7) ∧
  decodeElem (fixedCtx (.distCode .fixed 6)) (bits [o, o, o, x, o]) 5 = .ok (.fixedDist 2, 5) ∧
  decodeElem (fixedCtx (.data .fixed)) (bits [o, o, o, o, o, o, o]) 7 = .ok (.fixedEob, 7) ∧
  decodeElem (fixedCtx (.lenExtra .fixed 269)) (bits [x, o]) 2 = .ok (.len269 1, 2) ∧
  decodeElem (fixedCtx (.distExtra .fixed 3 8)) (bits [o, o, x]) 3 = .ok (.dist8 4, 3)

/-! ### Configuration and errors -/

/-- What the commands check (R211, R301, R311) and what a failed check does: `InvalidConfig`, and only
the flags change (R270, R271, R310, R359, R93). -/
def Obligations.ConfigurationChecks : Prop :=
  ∀ s : State,
    (s.configOk = true ↔ (-1 ≤ s.cfgLevel.toInt ∧ s.cfgLevel.toInt ≤ 9) ∧
      (9 ≤ s.cfgWbits.toNat ∧ s.cfgWbits.toNat ≤ 15) ∧ s.cfgStrategy.toNat ≤ 4 ∧
      s.cfgFraming.toNat ≤ 1) ∧
    (s.decodeConfigOk = true ↔
      (9 ≤ s.cfgWbits.toNat ∧ s.cfgWbits.toNat ≤ 15) ∧ s.cfgFraming.toNat ≤ 1) ∧
    ((s.cfgWbits.toNat < 9 ∨ 15 < s.cfgWbits.toNat ∨ s.wpos % 8 ≠ 0) →
      exec .decblk s = .next (s.flagError .invalidConfig)) ∧
    (s.decodeConfigOk = false → exec .decompress s = .next (s.flagError .invalidConfig)) ∧
    (s.configOk = false → exec .compress s = .next (s.flagError .invalidConfig)) ∧
    ∀ op : BitVec 8, exec (.reservedCmd op) s =
      .next { s with status := .error, err := some .invalidConfig }

/-- R359: after `InvalidConfig` only `STATUS` and `ERR` changed, whichever command raised it. -/
def Obligations.InvalidConfigChangesOnlyFlags : Prop :=
  ∀ (i : Instr) (s t : State), i.opcode.isSome = true → exec i s = .next t →
    t.err = some .invalidConfig →
    t = { s with status := .error, err := some .invalidConfig }

/-- R354: a command ends in `DONE` with no error, or in `ERROR` with one of its own row's errors. -/
def Obligations.ErrorMatrix : Prop :=
  ∀ (i : Instr) (s t : State), (encodeHost i).isSome = true → exec i s = .next t →
    (t.status = .done ∧ t.err = none) ∨
      ∃ e ∈ allowedErrors (s.cfgFraming == 1) i, t.status = .error ∧ t.err = some e

/-! ### The bit reader and writer -/

/-- R140, R149, R150: `BITINIT` clears the cursors and `NTOK` and leaves the output unspecified;
`ALIGNW` and `ALIGNR` move one cursor to a byte boundary. Nothing else changes. -/
def Obligations.CursorCommands : Prop :=
  ∀ s : State,
    (∃ t, exec .bitinit s = .next t ∧ t.olen = 0 ∧ t.obuf.cells = [] ∧
      t = { s with
        status := .done, err := none, rpos := 0, wpos := 0, ntok := 0
        obuf := t.obuf, fresh := t.fresh }) ∧
    exec .alignw s =
      .next { s with status := .done, err := none, wpos := 8 * ((s.wpos + 7) / 8) } ∧
    exec .alignr s =
      .next { s with status := .done, err := none, rpos := 8 * ((s.rpos + 7) / 8) }

/-- R147, R141: `WRBITS` refuses more than 32 bits; else it does the loop of `WriteBits`. -/
def Obligations.WrbitsIsTheWriteLoop : Prop :=
  ∀ s : State,
    (32 < s.arg1.toNat →
      exec .wrbits s = .next { s with status := .error, err := some .invalidConfig }) ∧
    (s.arg1.toNat ≤ 32 → s.obuf.wf = true →
      exec .wrbits s =
        .next { writeBitLoop s.arg0.toNat 0 s.arg1.toNat s with status := .done, err := none })

/-- R27, R63, R141: the bits written stand at the cursor, LSB first; bits before it, and bytes outside
the ones written, are as before; the rest of the last byte is 0. -/
def Obligations.WrittenBits : Prop :=
  ∀ (s : State) (v n : Nat),
    (s.wpos % 8 ≠ 0 → (s.obufAt (s.wpos / 8)).toNat < 2 ^ (s.wpos % 8)) →
    (s.writeBits v n).wpos = s.wpos + n ∧
    (∀ p < s.wpos, ((s.writeBits v n).obufAt (p / 8)).getLsbD (p % 8) =
      (s.obufAt (p / 8)).getLsbD (p % 8)) ∧
    (∀ k < n, ((s.writeBits v n).obufAt ((s.wpos + k) / 8)).getLsbD ((s.wpos + k) % 8) =
      v.testBit k) ∧
    (∀ p, s.wpos + n ≤ p → p < 8 * (s.writeBits v n).olen →
      ((s.writeBits v n).obufAt (p / 8)).getLsbD (p % 8) = false) ∧
    ∀ a, (a < s.wpos / 8 ∨ (s.writeBits v n).olen ≤ a) → (s.writeBits v n).obufAt a = s.obufAt a

/-- R151: fields written from `WPOS = 0` and padded, then read back from the same bytes, come back in
order, each modulo its width. -/
def Obligations.WriteReadDuality : Prop :=
  ∀ (s u : State) (fields : List (Nat × Nat)), s.wpos = 0 → (∀ f ∈ fields, f.2 ≤ 32) →
    u.rpos = 0 →
    u.ilen = ((fields.foldl (fun t f => t.writeBits f.1 f.2) s).alignW).olen →
    (∀ i < u.ilen,
      u.ibufAt i = ((fields.foldl (fun t f => t.writeBits f.1 f.2) s).alignW).obufAt i) →
    readFields (fields.map (·.2)) u = some (fields.map fun f => f.1 % 2 ^ f.2)

/-- R148: `RDBITS` refuses more than 32 bits; raises `TruncatedInput` with `RPOS` and `RES0` unchanged
when too few remain; else `RES0` holds the next bits, the first as bit 0. -/
def Obligations.RdbitsResult : Prop :=
  ∀ s : State,
    (32 < s.arg0.toNat →
      exec .rdbits s = .next { s with status := .error, err := some .invalidConfig }) ∧
    (s.arg0.toNat ≤ 32 → s.remaining < s.arg0.toNat →
      ∃ t, exec .rdbits s = .next t ∧ keptAfterError .truncatedInput s t ∧ t.rpos = s.rpos) ∧
    (s.arg0.toNat ≤ 32 → s.arg0.toNat ≤ s.remaining →
      ∃ r : BitVec 32,
        exec .rdbits s = .next { s with
          status := .done, err := none, rpos := s.rpos + s.arg0.toNat, res0 := r } ∧
        ∀ k < 32, r.getLsbD k = (decide (k < s.arg0.toNat) &&
          (s.ibufAt ((s.rpos + k) / 8)).getLsbD ((s.rpos + k) % 8)))

/-! ### The Huffman encoder -/

/-- R161: `HBUILD` refuses an alphabet above 2; else it writes the lengths of `FREQ_a` to `LEN_a` and
nothing else. -/
def Obligations.HbuildResult : Prop :=
  ∀ s : State,
    (2 < s.arg0.toNat →
      exec .hbuild s = .next { s with status := .error, err := some .invalidConfig }) ∧
    ∀ a, alphabetOf s.arg0 = some a →
      exec .hbuild s = .next { s.setLens a (codeLengths a (s.freqs a)) with
        status := .done, err := none }

/-- R166(a), R166(b), R165: the lengths of `HBUILD` are 1..`MAXBITS` for the symbols used after
`ForceTwo`, 0 for all others, and their Kraft sum is exactly `2^MAXBITS`. -/
def Obligations.HuffmanLengthsComplete : Prop :=
  ∀ (a : Alphabet) (freqs : List Nat), freqs.length = a.nsym →
    (codeLengths a freqs).length = a.nlen ∧
    (∀ i < a.nlen,
      if 0 < (forceTwo freqs).getD i 0 then
        1 ≤ (codeLengths a freqs).getD i 0 ∧ (codeLengths a freqs).getD i 0 ≤ a.maxBits
      else (codeLengths a freqs).getD i 0 = 0) ∧
    kraftSum a.maxBits (codeLengths a freqs) = 2 ^ a.maxBits

/-- R166(d), R166(e): a more frequent symbol never gets a longer code, and of equally frequent ones the
lower never gets a longer code than the higher. -/
def Obligations.HuffmanLengthsOrdered : Prop :=
  ∀ (a : Alphabet) (freqs : List Nat) (i j : Nat), freqs.length = a.nsym → i < a.nsym →
    j < a.nsym → 0 < (forceTwo freqs).getD i 0 → 0 < (forceTwo freqs).getD j 0 →
    ((forceTwo freqs).getD i 0 < (forceTwo freqs).getD j 0 →
      (codeLengths a freqs).getD j 0 ≤ (codeLengths a freqs).getD i 0) ∧
    ((forceTwo freqs).getD i 0 = (forceTwo freqs).getD j 0 → i < j →
      (codeLengths a freqs).getD i 0 ≤ (codeLengths a freqs).getD j 0)

/-- R170, R172: `HCANON` refuses an alphabet above 2, refuses over-subscribed lengths with `LEN_a`
unchanged (as R170 says; R359 leaves it unspecified: the model's choice, assumption log 5), and else writes the canonical codes to `CODE_a` and nothing else. -/
def Obligations.HcanonResult : Prop :=
  ∀ s : State,
    (2 < s.arg0.toNat →
      exec .hcanon s = .next { s with status := .error, err := some .invalidConfig }) ∧
    ∀ a, alphabetOf s.arg0 = some a →
      (2 ^ a.maxBits < kraftSum a.maxBits (s.lens a) →
        ∃ t, exec .hcanon s = .next t ∧ keptAfterError .invalidHuffmanCode s t ∧
          t.lens a = s.lens a) ∧
      (kraftSum a.maxBits (s.lens a) ≤ 2 ^ a.maxBits →
        exec .hcanon s = .next { s.setCodes a (canonicalCodes a.maxBits (s.lens a)) with
          status := .done, err := none })

/-- R171: for lengths that are not over-subscribed, unused symbols get code 0 and every codeword,
left-aligned, is the sum of the code space of the symbols before it in the order (length, symbol), so the
first is all zeros and each next one is the one before plus 1, shifted left where the length grows. Hence
codewords fit their lengths, rise with the symbol and, left-aligned, with the length, and none starts
another. -/
def Obligations.CanonicalCodes : Prop :=
  ∀ (maxBits : Nat) (lens : List Nat), (∀ n ∈ lens, n ≤ maxBits) →
    kraftSum maxBits lens ≤ 2 ^ maxBits →
    let c := canonicalCodes maxBits lens
    c.length = lens.length ∧
    (∀ i, lens.getD i 0 = 0 → c.getD i 0 = 0) ∧
    (∀ i, 0 < lens.getD i 0 → c.getD i 0 * 2 ^ (maxBits - lens.getD i 0) =
      (((List.range lens.length).filter fun j => decide (0 < lens.getD j 0 ∧
          (lens.getD j 0 < lens.getD i 0 ∨ lens.getD j 0 = lens.getD i 0 ∧ j < i))).map
        fun j => 2 ^ (maxBits - lens.getD j 0)).sum) ∧
    ∀ i j, 0 < lens.getD i 0 → 0 < lens.getD j 0 →
      c.getD i 0 < 2 ^ lens.getD i 0 ∧
      (lens.getD i 0 = lens.getD j 0 → i < j → c.getD i 0 < c.getD j 0) ∧
      (lens.getD i 0 < lens.getD j 0 →
        (c.getD i 0 + 1) * 2 ^ (maxBits - lens.getD i 0) ≤
          c.getD j 0 * 2 ^ (maxBits - lens.getD j 0)) ∧
      (i ≠ j → lens.getD i 0 ≤ lens.getD j 0 →
        c.getD j 0 / 2 ^ (lens.getD j 0 - lens.getD i 0) ≠ c.getD i 0)

/-- R174: `HPUT` refuses a bad alphabet, a symbol out of range and an unused symbol; else it writes the
codeword most significant bit first. -/
def Obligations.HputResult : Prop :=
  (∀ n c i, i < n → (revBits n c).testBit i = c.testBit (n - 1 - i)) ∧
  ∀ s : State,
    (2 < s.arg0.toNat →
      exec .hput s = .next { s with status := .error, err := some .invalidConfig }) ∧
    ∀ a, alphabetOf s.arg0 = some a →
      ((a.nlen ≤ s.arg1.toNat ∨ s.lenAt a s.arg1.toNat = 0) →
        exec .hput s = .next { s with status := .error, err := some .invalidConfig }) ∧
      (s.arg1.toNat < a.nlen → 0 < s.lenAt a s.arg1.toNat → s.obuf.wf = true →
        exec .hput s = .next { writeBitLoop
            (revBits (s.lenAt a s.arg1.toNat) (s.codeAt a s.arg1.toNat)) 0
            (s.lenAt a s.arg1.toNat) s with
          status := .done, err := none })

/-! ### The Huffman decoder -/

/-- R191, R192: `HDBUILD` refuses a bad alphabet; accepts complete codes, and for the distance alphabet
the empty code and one codeword of one bit; else raises `InvalidHuffmanCode` with `LEN_a` unchanged (as
R191 says; R359 leaves it unspecified: the model's choice, assumption log 5). -/
def Obligations.HdbuildResult : Prop :=
  ∀ s : State,
    (2 < s.arg0.toNat →
      exec .hdbuild s = .next { s with status := .error, err := some .invalidConfig }) ∧
    ∀ a, alphabetOf s.arg0 = some a →
      let lens := s.lens a
      let k := kraftSum a.maxBits lens
      let used := lens.filter (0 < ·)
      if k = 2 ^ a.maxBits ∨ (k < 2 ^ a.maxBits ∧ a = .d ∧
          (used.length = 0 ∨ (used.length = 1 ∧ used.head? = some 1))) then
        exec .hdbuild s = .next { s.setDtbl a (builtTable a lens) with status := .done, err := none }
      else
        ∃ t, exec .hdbuild s = .next t ∧ keptAfterError .invalidHuffmanCode s t ∧ t.lens a = lens

/-- R191, R194: in the table of accepted lengths every index whose low bits spell a codeword, as it
arrives, holds that codeword's symbol and length; every other index is marked unmatched. -/
def Obligations.BuiltTableEntries : Prop :=
  ∀ (a : Alphabet) (lens : List Nat), lens.length = a.nlen → (∀ n ∈ lens, n ≤ a.maxBits) →
    codeAccepted a lens = true →
    let code := canonicalCodes a.maxBits lens
    (∀ sym h, 0 < lens.getD sym 0 → h < 2 ^ (a.maxBits - lens.getD sym 0) →
      (builtTable a lens).entry a
        (revBits (lens.getD sym 0) (code.getD sym 0) ||| (h <<< lens.getD sym 0)) =
          (sym, lens.getD sym 0)) ∧
    ∀ idx < 2 ^ a.maxBits,
      (∀ sym, 0 < lens.getD sym 0 →
        idx % 2 ^ lens.getD sym 0 ≠ revBits (lens.getD sym 0) (code.getD sym 0)) →
      (builtTable a lens).entry a idx = (0, 0)

/-- R196: `HDSYM` looks up the next `MAXBITS` bits, refuses an unmatched pattern, then a codeword longer
than what remains, with `RPOS` unchanged; else it reports and consumes the matched codeword. -/
def Obligations.HdsymResult : Prop :=
  ∀ s : State,
    (2 < s.arg0.toNat →
      exec .hdsym s = .next { s with status := .error, err := some .invalidConfig }) ∧
    ∀ a, alphabetOf s.arg0 = some a →
      let e := (s.dtbl a).entry a (fieldAt (peekBit s.streamBit s.remaining) 0 a.maxBits)
      (e.2 = 0 → ∃ t, exec .hdsym s = .next t ∧ keptAfterError .invalidHuffmanCode s t ∧
        t.rpos = s.rpos) ∧
      (0 < e.2 → s.remaining < e.2 → ∃ t, exec .hdsym s = .next t ∧
        keptAfterError .truncatedInput s t ∧ t.rpos = s.rpos) ∧
      (0 < e.2 → e.2 ≤ s.remaining →
        exec .hdsym s = .next { s with
          status := .done, err := none, rpos := s.rpos + e.2
          res0 := BitVec.ofNat 32 e.1, res1 := BitVec.ofNat 32 e.2 })

/-! ### The match finder -/

/-- R212: `MFIND` refuses a bad configuration or range; else `RES0` and `RES1` are the match's length
and distance, 0 and 0 for none, and nothing else changes. -/
def Obligations.MfindResult : Prop :=
  ∀ s : State,
    (s.configOk = false ∨ s.arg1.toNat < s.arg0.toNat ∨ s.ilen < s.arg1.toNat →
      exec .mfind s = .next { s with status := .error, err := some .invalidConfig }) ∧
    (s.configOk = true → s.arg0.toNat ≤ s.arg1.toNat → s.arg1.toNat ≤ s.ilen →
      (findMatch s.matchConfig s.inputBytes s.arg0.toNat s.arg1.toNat = none →
        exec .mfind s = .next { s with status := .done, err := none, res0 := 0, res1 := 0 }) ∧
      ∀ m, findMatch s.matchConfig s.inputBytes s.arg0.toNat s.arg1.toNat = some m →
        exec .mfind s = .next { s with
          status := .done, err := none
          res0 := BitVec.ofNat 32 m.len, res1 := BitVec.ofNat 32 m.dist })

/-- R213 to R216: what `FindMatch` answers. Where it searches (first clause), it answers exactly the
longest match of the candidates examined, of equally long ones the nearest, or none when there is no
candidate or the longest match is too short. What R216 draws from it: bounds, the bytes repeated, the
strategies' limits, and that a higher level never finds a shorter match. -/
def Obligations.FindMatchSound : Prop :=
  ∀ (cfg : MatchConfig) (inp : List Byte) (pos endp : Nat), cfg.window ≤ 32768 →
    endp ≤ inp.length →
    (1 ≤ cfg.level → cfg.level ≤ 9 → cfg.strategy ≠ 2 → pos + 3 ≤ endp →
      let maxlen := min 258 (endp - pos)
      let minlen := if cfg.strategy = 1 then 6 else 3
      (∀ m, findMatch cfg inp pos endp = some m ↔
        minlen ≤ m.len ∧ ∃ c, isExamined cfg inp pos c = true ∧ m.dist = pos - c ∧
          isMatchLen inp c pos maxlen m.len = true ∧
          ∀ d k, isExamined cfg inp pos d = true → isMatchLen inp d pos maxlen k = true →
            k < m.len ∨ (k = m.len ∧ d ≤ c)) ∧
      (findMatch cfg inp pos endp = none ↔
        ∀ c k, isExamined cfg inp pos c = true → isMatchLen inp c pos maxlen k = true →
          k < minlen)) ∧
    ((cfg.strategy = 2 ∨ cfg.level = 0 ∨ endp < pos + 3) → findMatch cfg inp pos endp = none) ∧
    ∀ m, findMatch cfg inp pos endp = some m →
      (3 ≤ m.len ∧ m.len ≤ 258 ∧ 1 ≤ m.dist ∧ m.dist ≤ pos ∧ m.dist ≤ cfg.window ∧
        m.dist ≤ 32768 ∧ pos + m.len ≤ endp) ∧
      (∀ j < m.len, inp.getD (pos - m.dist + j) 0 = inp.getD (pos + j) 0) ∧
      (cfg.strategy = 3 → m.dist = 1) ∧
      (cfg.strategy = 1 → 6 ≤ m.len) ∧
      ∀ l, cfg.level ≤ l → l ≤ 9 →
        ∃ m', findMatch { cfg with level := l } inp pos endp = some m' ∧ m.len ≤ m'.len

/-- R220, R35: `TOKENIZE` refuses a bad configuration or range; else `TOK` and `NTOK` hold the chunk's
tokens, in R35's format, and nothing else changes. -/
def Obligations.TokenizeResult : Prop :=
  ∀ s : State,
    (s.configOk = false ∨ chunkRangeOk s = false →
      exec .tokenize s = .next { s with status := .error, err := some .invalidConfig }) ∧
    (s.configOk = true → s.arg0.toNat ≤ s.arg1.toNat → s.arg1.toNat ≤ s.ilen →
      s.arg1.toNat - s.arg0.toNat ≤ 32768 →
      let ts := tokenizeChunk s.matchConfig s.inputBytes s.arg0.toNat s.arg1.toNat
      ∃ t, exec .tokenize s = .next t ∧
        t = { s with status := .done, err := none, tok := t.tok, ntok := ts.length } ∧
        (∀ i (h : i < ts.length), t.tok.read 12 i = tokenWord ts[i] ∧
          tokenFields (t.tok.read 12 i) ts[i]) ∧
        ∀ i, ts.length ≤ i → t.tok.read 12 i = s.tok.read 12 i)

/-- R223: the tokens of a chunk, expanded after the history before it, give exactly the chunk; they are
no more than its bytes; every match has a legal length and distance; with no matching there is none. -/
def Obligations.TokenizeReproduces : Prop :=
  ∀ (cfg : MatchConfig) (inp : List Byte) (start endp : Nat), cfg.window ≤ 32768 →
    start ≤ endp → endp ≤ inp.length →
    expandTokens (inp.take start) (tokenizeChunk cfg inp start endp) = inp.take endp ∧
    (tokenizeChunk cfg inp start endp).length ≤ endp - start ∧
    (∀ len dist, Token.copy len dist ∈ tokenizeChunk cfg inp start endp →
      3 ≤ len ∧ len ≤ 258 ∧ 1 ≤ dist ∧ dist ≤ cfg.window ∧ dist ≤ 32768) ∧
    ((cfg.strategy = 2 ∨ cfg.level = 0) →
      ∀ x ∈ tokenizeChunk cfg inp start endp, ∃ b, x = .lit b)

/-! ### The block encoder and the stream controller's `COMPRESS` -/

/-- R240, R241, R256: `ENCBLK` refuses bad operands; else it appends one block, whose header's bits are
`ARG2` and the type in `RES0`, and reports its size in bits; the Huffman tables become unspecified (R41;
R256 keeps `DTBL_*`, assumption log 6); `TOK` and `NTOK` hold the chunk's tokens, in R35's format, if it
was tokenised. -/
def Obligations.EncblkResult : Prop :=
  ∀ s : State,
    (s.configOk = false ∨ chunkRangeOk s = false ∨ 1 < s.arg2.toNat ∨ 3 < s.arg3.toNat →
      exec .encblk s = .next { s with status := .error, err := some .invalidConfig }) ∧
    (s.configOk = true → chunkRangeOk s = true → s.arg2.toNat ≤ 1 → s.arg3.toNat ≤ 3 →
      ∃ t, exec .encblk s = .next t ∧
        t = { s with
          status := .done, err := none, wpos := t.wpos, obuf := t.obuf, tok := t.tok
          ntok := t.ntok, freqLL := t.freqLL, freqD := t.freqD, freqCL := t.freqCL
          lenLL := t.lenLL, lenD := t.lenD, lenCL := t.lenCL, codeLL := t.codeLL
          codeD := t.codeD, codeCL := t.codeCL, dtblLL := t.dtblLL, dtblD := t.dtblD
          dtblCL := t.dtblCL, res0 := t.res0, res1 := t.res1, fresh := t.fresh } ∧
        t.res0.toNat ≤ 2 ∧ (s.arg3.toNat < 3 → t.res0 = s.arg3) ∧
        ((s.wpos % 8 ≠ 0 → (s.obufAt (s.wpos / 8)).toNat < 2 ^ (s.wpos % 8)) →
          (t.obufAt (s.wpos / 8)).getLsbD (s.wpos % 8) = s.arg2.getLsbD 0 ∧
          (t.obufAt ((s.wpos + 1) / 8)).getLsbD ((s.wpos + 1) % 8) = t.res0.getLsbD 0 ∧
          (t.obufAt ((s.wpos + 2) / 8)).getLsbD ((s.wpos + 2) % 8) = t.res0.getLsbD 1) ∧
        t.res0 = BitVec.ofNat 32 (encodeBlock s.inputBytes s.arg0.toNat s.arg1.toNat
          (s.arg2 == 1) s.arg3.toNat s).btype ∧
        s.wpos + 3 ≤ t.wpos ∧ t.res1 = BitVec.ofNat 32 (t.wpos - s.wpos) ∧
        (∀ a, (a < s.wpos / 8 ∨ t.olen ≤ a) → t.obufAt a = s.obufAt a) ∧
        if s.arg3.toNat = 0 ∨ (s.arg3.toNat = 3 ∧ s.level = 0) then
          t.tok = s.tok ∧ t.ntok = s.ntok
        else
          let ts := tokenizeChunk s.matchConfig s.inputBytes s.arg0.toNat s.arg1.toNat
          t.ntok = ts.length ∧
            (∀ i (h : i < ts.length), t.tok.read 12 i = tokenWord ts[i] ∧
              tokenFields (t.tok.read 12 i) ts[i]) ∧
            ∀ i, ts.length ≤ i → t.tok.read 12 i = s.tok.read 12 i)

/-- R241, R242, R257(a): the block written has the size computed for its type; that type is a
candidate of least size, and of those the least number. -/
def Obligations.BlockHasLeastSize : Prop :=
  ∀ (inp : List Byte) (start endp : Nat) (final : Bool) (sel : Nat) (s : State), sel ≤ 3 →
    let cand := if sel = 3 then candidateTypes s else [sel]
    let ts := if cand.contains 1 || cand.contains 2 then
      tokenizeChunk s.matchConfig inp start endp else []
    let form := blockForm s.wpos ((inp.drop start).take (endp - start)) ts
    let r := encodeBlock inp start endp final sel s
    r.btype ∈ cand ∧ r.size = (form r.btype).size ∧ r.state.wpos = s.wpos + r.size ∧
    ∀ bt ∈ cand, (form r.btype).size ≤ (form bt).size ∧
      (bt < r.btype → (form r.btype).size < (form bt).size)

/-- R300: `COMPRESS`, `ZCOMPRESS` and `RAWCOMPRESS` under a legal configuration end in `DONE`, whatever
the input: both cursors start at 0, the output is whole bytes, `ADLER` is set when framed, the tables are
unspecified, and nothing else changes. -/
def Obligations.CompressResult : Prop :=
  ∀ (i : Instr) (s u : State),
    (i = .compress ∧ u = s) ∨ (i = .zcompress ∧ u = { s with cfgFraming := 1 }) ∨
      (i = .rawcompress ∧ u = { s with cfgFraming := 0 }) →
    u.configOk = true →
    ∃ t, exec i s = .next t ∧ t.wpos % 8 = 0 ∧ 0 < t.wpos ∧
      t = { u with
        status := .done, err := none, rpos := 0, wpos := t.wpos, ntok := t.ntok, tok := t.tok
        adler := if u.cfgFraming = 1 then BitVec.ofNat 32 (adlerOf u.inputBytes) else u.adler
        obuf := t.obuf, freqLL := t.freqLL, freqD := t.freqD, freqCL := t.freqCL
        lenLL := t.lenLL, lenD := t.lenD, lenCL := t.lenCL, codeLL := t.codeLL
        codeD := t.codeD, codeCL := t.codeCL, dtblLL := t.dtblLL, dtblD := t.dtblD
        dtblCL := t.dtblCL, fresh := t.fresh }

/-- R302, R306(b): the output of `COMPRESS` is a function of the input bytes and the configuration. -/
def Obligations.CompressIsDeterministic : Prop :=
  ∀ s u t v : State, s.configOk = true → u.cfgLevel = s.cfgLevel → u.cfgWbits = s.cfgWbits →
    u.cfgStrategy = s.cfgStrategy → u.cfgFraming = s.cfgFraming → u.ilen = s.ilen →
    (∀ i < s.ilen, u.ibufAt i = s.ibufAt i) →
    exec .compress s = .next t → exec .compress u = .next v →
    v.olen = t.olen ∧ (∀ i < t.olen, v.obufAt i = t.obufAt i) ∧ v.ntok = t.ntok ∧
      ∀ i < t.ntok, v.tok.read 12 i = t.tok.read 12 i

/-- R246, R303: at level 0, raw, an input of one chunk becomes its stored final block, byte for byte. -/
def Obligations.StoredCompressBytes : Prop :=
  ∀ s : State, s.configOk = true → s.level = 0 → s.cfgFraming = 0 → s.ilen ≤ 32768 →
    ∃ t, exec .compress s = .next t ∧ t.status = .done ∧
      t.outputBytes =
        [1, BitVec.ofNat 8 s.ilen, BitVec.ofNat 8 (s.ilen / 256),
          BitVec.ofNat 8 (65535 - s.ilen), BitVec.ofNat 8 ((65535 - s.ilen) / 256)] ++
        s.inputBytes

/-- R306(a), R317(a): `DECOMPRESS` of what `COMPRESS` wrote under any legal configuration (every level
and strategy), with the same window and framing, gives the input back and consumes all of it. -/
def Obligations.CompressRoundTrip : Prop :=
  ∀ s t u : State, s.configOk = true → exec .compress s = .next t →
    u.cfgWbits = s.cfgWbits → u.cfgFraming = s.cfgFraming → u.ilen = t.olen →
    (∀ i < t.olen, u.ibufAt i = t.obufAt i) →
    ∃ v, exec .decompress u = .next v ∧ v.status = .done ∧ v.outputBytes = s.inputBytes ∧
      v.icons = u.ilen

/-- R257(b) for Fixed blocks: `DECBLK` on the bits `ENCBLK` wrote, with the input before the chunk as
history, gives the chunk, its final flag and its type, and stops where the block ends. -/
def Obligations.FixedBlockRoundTrip : Prop :=
  ∀ s t u : State, s.configOk = true → chunkRangeOk s = true → s.arg2.toNat ≤ 1 → s.arg3 = 1 →
    (s.wpos % 8 ≠ 0 → (s.obufAt (s.wpos / 8)).toNat < 2 ^ (s.wpos % 8)) →
    exec .encblk s = .next t →
    u.cfgWbits = s.cfgWbits → u.rpos = s.wpos → t.wpos ≤ 8 * u.ilen →
    (∀ p, s.wpos ≤ p → p < t.wpos →
      (u.ibufAt (p / 8)).getLsbD (p % 8) = (t.obufAt (p / 8)).getLsbD (p % 8)) →
    u.wpos = 8 * s.arg0.toNat → (∀ i < s.arg0.toNat, u.obufAt i = s.ibufAt i) →
    ∃ v, exec .decblk u = .next v ∧ v.status = .done ∧ v.res0 = s.arg2 ∧ v.res1 = 1 ∧
      v.rpos = t.wpos ∧ v.olen = s.arg1.toNat ∧ ∀ i < s.arg1.toNat, v.obufAt i = s.ibufAt i

/-- R257(b) whole, for every type selector: Stored, Fixed, Dynamic (R251 to R254) and the type of least
size. `DECBLK` on the bits `ENCBLK` wrote, with the input before the chunk as history, gives the chunk,
its final flag and its type, and stops where the block ends. -/
def Obligations.BlockRoundTrip : Prop :=
  ∀ s t u : State, s.configOk = true → chunkRangeOk s = true → s.arg2.toNat ≤ 1 →
    s.arg3.toNat ≤ 3 →
    (s.wpos % 8 ≠ 0 → (s.obufAt (s.wpos / 8)).toNat < 2 ^ (s.wpos % 8)) →
    exec .encblk s = .next t →
    u.cfgWbits = s.cfgWbits → u.rpos = s.wpos → t.wpos ≤ 8 * u.ilen →
    (∀ p, s.wpos ≤ p → p < t.wpos →
      (u.ibufAt (p / 8)).getLsbD (p % 8) = (t.obufAt (p / 8)).getLsbD (p % 8)) →
    u.wpos = 8 * s.arg0.toNat → (∀ i < s.arg0.toNat, u.obufAt i = s.ibufAt i) →
    ∃ v, exec .decblk u = .next v ∧ v.status = .done ∧ v.res0 = s.arg2 ∧ v.res1 = t.res0 ∧
      v.rpos = t.wpos ∧ v.olen = s.arg1.toNat ∧ ∀ i < s.arg1.toNat, v.obufAt i = s.ibufAt i

/-! ### The block decoder and the stream controller's `DECOMPRESS` -/

/-- R274: `DECBLK` on a stored block, whatever its pad bits are: the bytes are appended, `RES0` and
`RES1` report the block, the cursors move past it, and the Huffman tables become unspecified (R41; R286
keeps `FREQ_*` and `CODE_*`, assumption log 6). -/
def Obligations.DecblkStoredBlock : Prop :=
  ∀ (s : State) (f : Bool) (pad : List Bool) (payload : List Byte),
    (9 ≤ s.cfgWbits.toNat ∧ s.cfgWbits.toNat ≤ 15) → s.wpos % 8 = 0 → payload.length ≤ 65535 →
    pad.length = (8 - (s.rpos + 3) % 8) % 8 →
    let stream := [f, false, false] ++ pad ++ bitsOf payload.length 16 ++
      bitsOf (65535 - payload.length) 16 ++ payload.flatMap fun b => bitsOf b.toNat 8
    stream.length ≤ s.remaining → (∀ k (h : k < stream.length), s.streamBit k = stream[k]) →
    ∃ t, exec .decblk s = .next t ∧
      t = { s with
        status := .done, err := none, rpos := s.rpos + stream.length
        wpos := s.wpos + 8 * payload.length, obuf := t.obuf
        res0 := if f then 1 else 0, res1 := 0
        freqLL := t.freqLL, freqD := t.freqD, freqCL := t.freqCL
        lenLL := t.lenLL, lenD := t.lenD, lenCL := t.lenCL
        codeLL := t.codeLL, codeD := t.codeD, codeCL := t.codeCL
        dtblLL := t.dtblLL, dtblD := t.dtblD, dtblCL := t.dtblCL
        phase := .idle, run := t.run, fresh := t.fresh } ∧
      (∀ i (h : i < payload.length), t.obufAt (s.olen + i) = payload[i]) ∧
      ∀ a, (a < s.olen ∨ s.olen + payload.length ≤ a) → t.obufAt a = s.obufAt a

/-- R310, R314, R315: `DECOMPRESS`, `ZDECOMPRESS` and `RAWDECOMPRESS` of a stream of one stored block:
framed, with an accepted header and the payload's checksum; bytes after the stream are ignored. -/
def Obligations.DecompressStoredStream : Prop :=
  ∀ (i : Instr) (s u : State) (cmf flg hdr : Byte) (payload extra : List Byte),
    (i = .decompress ∧ u = s) ∨ (i = .zdecompress ∧ u = { s with cfgFraming := 1 }) ∨
      (i = .rawdecompress ∧ u = { s with cfgFraming := 0 }) →
    u.decodeConfigOk = true → zlibHeaderOk cmf.toNat flg.toNat = true → hdr.toNat % 8 = 1 →
    payload.length ≤ 65535 →
    let n := payload.length
    let sum := BitVec.ofNat 32 (adlerOf payload)
    let head := if u.cfgFraming = 1 then [cmf, flg] else []
    let tail := if u.cfgFraming = 1 then
      [BitVec.ofNat 8 (sum.toNat / 16777216), BitVec.ofNat 8 (sum.toNat / 65536),
        BitVec.ofNat 8 (sum.toNat / 256), BitVec.ofNat 8 sum.toNat] else []
    let stream := head ++ [hdr, BitVec.ofNat 8 n, BitVec.ofNat 8 (n / 256),
      BitVec.ofNat 8 (65535 - n), BitVec.ofNat 8 ((65535 - n) / 256)] ++ payload ++ tail
    u.inputBytes = stream ++ extra →
    ∃ t, exec i s = .next t ∧ t.outputBytes = payload ∧
      t = { u with
        status := .done, err := none, rpos := 8 * stream.length, wpos := 8 * n, ntok := 0
        icons := stream.length, adler := if u.cfgFraming = 1 then sum else u.adler
        obuf := t.obuf, freqLL := t.freqLL, freqD := t.freqD, freqCL := t.freqCL
        lenLL := t.lenLL, lenD := t.lenD, lenCL := t.lenCL, codeLL := t.codeLL
        codeD := t.codeD, codeCL := t.codeCL, dtblLL := t.dtblLL, dtblD := t.dtblD
        dtblCL := t.dtblCL, phase := .idle, run := t.run, fresh := t.fresh }

/-- R270, R286: what `DECBLK` leaves, when it succeeds and when it fails. On success the Huffman tables
become unspecified (R41; R286 keeps `FREQ_*` and `CODE_*`, assumption log 6). An error keeps the output
that was there before (R270; R359 leaves it unspecified, assumption log 5). -/
def Obligations.DecblkFrame : Prop :=
  ∀ s t : State, (9 ≤ s.cfgWbits.toNat ∧ s.cfgWbits.toNat ≤ 15) → s.wpos % 8 = 0 →
    exec .decblk s = .next t →
    (t = { s with
        status := .done, err := none, rpos := t.rpos, wpos := t.wpos, obuf := t.obuf
        res0 := t.res0, res1 := t.res1
        freqLL := t.freqLL, freqD := t.freqD, freqCL := t.freqCL
        lenLL := t.lenLL, lenD := t.lenD, lenCL := t.lenCL
        codeLL := t.codeLL, codeD := t.codeD, codeCL := t.codeCL
        dtblLL := t.dtblLL, dtblD := t.dtblD, dtblCL := t.dtblCL
        phase := .idle, run := t.run, fresh := t.fresh } ∧
      s.rpos + 3 ≤ t.rpos ∧ s.wpos ≤ t.wpos ∧ t.wpos % 8 = 0 ∧ t.res0.toNat ≤ 1 ∧
      t.res1.toNat ≤ 2 ∧ ∀ a < s.olen, t.obufAt a = s.obufAt a) ∨
    ∃ e, keptAfterDecodeError e s t ∧
      ∀ a v, a < s.olen → findCell s.obuf.cells a = some v → t.obufAt a = v

/-- R92, R100: `DECBLK` and `DECOMPRESS`, one step to the host, do what the machine does when it steps
through the stream's elements one by one. -/
def Obligations.DecodeCommandIsItsElements : Prop :=
  ∀ s : State,
    (s.wbitsOk = true → s.wpos % 8 = 0 →
      ∃ n t, exec .decblk s = .next t ∧ runSteps n s.begin.startBlock = .next t ∧
        t.phase = .idle) ∧
    (s.decodeConfigOk = true →
      ∃ n t, exec .decompress s = .next t ∧ runSteps n s.begin.startStream = .next t ∧
        t.phase = .idle)

/-! ### Stream elements -/

/-- R101, R273, R275: the four block headers consume three bits and note `BFINAL` and `BTYPE`; a Fixed
header loads the fixed code; the reserved type raises `InvalidBlockType`. -/
def Obligations.BlockHeaders : Prop :=
  ∀ (s : State) (f : Bool), s.phase = .blockHdr →
    exec (.blockStored f) s = .next { s with
      rpos := s.rpos + 3, run := { s.run with bfinal := f, btype := 0 }, phase := .storedLen } ∧
    exec (.blockDynamic f) s = .next { s with
      rpos := s.rpos + 3, run := { s.run with bfinal := f, btype := 2 }, phase := .dynHdr } ∧
    (∃ t, exec (.blockFixed f) s = .next t ∧
      t = { s with
        rpos := s.rpos + 3, run := { s.run with bfinal := f, btype := 1 }
        lenLL := t.lenLL, lenD := t.lenD, dtblLL := fixedTable .ll, dtblD := fixedTable .d
        phase := .data .fixed } ∧
      (∀ k < 288, t.lenAt .ll k = fixedLenLL.getD k 0) ∧ ∀ k < 32, t.lenAt .d k = 5) ∧
    ∃ t, exec (.blockReserved f) s = .next t ∧ keptAfterDecodeError .invalidBlockType s t

/-- R102, R274: `STORED_LEN` skips to the byte boundary and checks the complement; `STORED_DATA` puts
out its bytes and ends the block. -/
def Obligations.StoredElements : Prop :=
  (∀ (s : State) (len nlen : BitVec 16), s.phase = .storedLen →
    (nlen = len ^^^ 0xFFFF →
      exec (.storedLen len nlen) s = .next { s with
        rpos := 8 * ((s.rpos + 7) / 8) + 32, phase := .storedData len.toNat }) ∧
    (nlen ≠ len ^^^ 0xFFFF →
      ∃ t, exec (.storedLen len nlen) s = .next t ∧
        keptAfterDecodeError .invalidStoredLength s t)) ∧
  ∀ (s : State) (payload : List Byte), s.phase = .storedData payload.length → s.wpos % 8 = 0 →
    ∃ u : State, exec (.storedData payload) s = .next u.endBlock ∧
      u = { s with
        rpos := s.rpos + 8 * payload.length, wpos := s.wpos + 8 * payload.length
        obuf := u.obuf } ∧
      (∀ i (h : i < payload.length), u.obufAt (s.olen + i) = payload[i]) ∧
      ∀ a, (a < s.olen ∨ s.olen + payload.length ≤ a) → u.obufAt a = s.obufAt a

/-- R281, R105: a literal consumes its codeword and puts out one byte. -/
def Obligations.LiteralElements : Prop :=
  ∀ (i : Instr) (kind : BlockKind) (sym : Byte) (n : Nat) (s : State),
    (i = .fixedLit0To143 sym ∧ kind = .fixed ∧ n = 8) ∨
      (i = .fixedLit144To255 sym ∧ kind = .fixed ∧ n = 9) ∨
      (∃ m : BitVec 4, i = .dynLit sym m ∧ kind = .dynamic ∧ n = m.toNat) →
    s.phase = .data kind → s.wpos % 8 = 0 →
    exec i s = .next { s with
      rpos := s.rpos + n, wpos := s.wpos + 8, obuf := s.obuf.write s.olen sym }

/-- R282, R286, R310, R314, R315: end of block. `DECBLK` reports and ends; `DECOMPRESS` goes to the next
header, or after the final block to the trailer or its end. Where the command ends the Huffman tables
become unspecified (R41; R286 keeps `FREQ_*` and `CODE_*`, assumption log 6). -/
def Obligations.EndOfBlockElements : Prop :=
  ∀ (i : Instr) (kind : BlockKind) (n : Nat) (s : State),
    (i = .fixedEob ∧ kind = .fixed ∧ n = 7) ∨
      (∃ m : BitVec 4, i = .dynEob m ∧ kind = .dynamic ∧ n = m.toNat) →
    s.phase = .data kind →
    (s.run.whole = false → ∃ t, exec i s = .next t ∧
      t = { s with
        status := .done, rpos := s.rpos + n, phase := .idle
        res0 := if s.run.bfinal then 1 else 0, res1 := s.run.btype.setWidth 32
        freqLL := t.freqLL, freqD := t.freqD, freqCL := t.freqCL
        lenLL := t.lenLL, lenD := t.lenD, lenCL := t.lenCL
        codeLL := t.codeLL, codeD := t.codeD, codeCL := t.codeCL
        dtblLL := t.dtblLL, dtblD := t.dtblD, dtblCL := t.dtblCL, fresh := t.fresh }) ∧
    (s.run.whole = true → s.run.bfinal = false →
      exec i s = .next { s with rpos := s.rpos + n, phase := .blockHdr }) ∧
    (s.run.whole = true → s.run.bfinal = true → s.cfgFraming = 1 →
      exec i s = .next { s with
        rpos := 8 * ((s.rpos + n + 7) / 8), phase := .zlibAdler }) ∧
    (s.run.whole = true → s.run.bfinal = true → s.cfgFraming ≠ 1 → ∃ t, exec i s = .next t ∧
      t = { s with
        status := .done, rpos := 8 * ((s.rpos + n + 7) / 8), phase := .idle
        icons := (s.rpos + n + 7) / 8
        freqLL := t.freqLL, freqD := t.freqD, freqCL := t.freqCL
        lenLL := t.lenLL, lenD := t.lenD, lenCL := t.lenCL
        codeLL := t.codeLL, codeD := t.codeD, codeCL := t.codeCL
        dtblLL := t.dtblLL, dtblD := t.dtblD, dtblCL := t.dtblCL, fresh := t.fresh })

/-- R105, R112, R284: the codeword of a length or a distance symbol is consumed; its extra bits come
next. -/
def Obligations.MatchCodewords : Prop :=
  (∀ (i : Instr) (kind : BlockKind) (sym : BitVec 9) (n : Nat) (s : State),
    (i = .fixedLen257To279 sym ∧ kind = .fixed ∧ n = 7) ∨
      (i = .fixedLen280To285 sym ∧ kind = .fixed ∧ n = 8) ∨
      (∃ m : BitVec 4, i = .dynLen sym m ∧ kind = .dynamic ∧ n = m.toNat) →
    s.phase = .data kind →
    exec i s = .next { s with rpos := s.rpos + n, phase := .lenExtra kind sym.toNat }) ∧
  ∀ (i : Instr) (kind : BlockKind) (d : BitVec 5) (n length : Nat) (s : State),
    (i = .fixedDist d ∧ kind = .fixed ∧ n = 5) ∨
      (∃ m : BitVec 4, i = .dynDist d m ∧ kind = .dynamic ∧ n = m.toNat) →
    s.phase = .distCode kind length →
    exec i s = .next { s with rpos := s.rpos + n, phase := .distExtra kind length d.toNat }

/-- R283, R284: literal/length symbols 286 and 287 of the fixed code and distance symbols 30 and 31
raise `InvalidHuffmanCode`. That `DECBLK`'s former output and a raw `DECOMPRESS`'s `ADLER` are kept (R270,
R310) although R359 leaves them unspecified is the model's choice (assumption log 5). -/
def Obligations.InvalidSymbols : Prop :=
  ∀ (i : Instr) (s : State),
    (∃ sym, i = .fixedLL286To287 sym ∧ s.phase = .data .fixed) ∨
      (i = .dist30 ∧ ∃ kind length, s.phase = .distExtra kind length 30) ∨
      (i = .dist31 ∧ ∃ kind length, s.phase = .distExtra kind length 31) →
    ∃ t, exec i s = .next t ∧ keptAfterDecodeError .invalidHuffmanCode s t ∧
      keptByDecodeCommand s t

/-- R106, R113: each of `LEN_257` to `LEN_285` consumes its extra bits and makes the length
`LBASE + extra`, which lies in 3..258. -/
def Obligations.LengthSymbols : Prop :=
  ∀ (i : Instr) (k x : Nat) (kind : BlockKind) (s : State), i.lengthFields = some (k, x) →
    s.phase = .lenExtra kind (257 + k) →
    exec i s = .next { s with
      rpos := s.rpos + lengthExtra k, phase := .distCode kind (lengthBase k + x) } ∧
    3 ≤ lengthBase k + x ∧ lengthBase k + x ≤ 258

/-- R74, R107, R285: each of `DIST_0` to `DIST_29` consumes its extra bits and copies `length` bytes
from `DBASE + extra` back, byte by byte, or raises `WindowSizeExceeded`. -/
def Obligations.DistanceSymbols : Prop :=
  ∀ (i : Instr) (d x : Nat) (kind : BlockKind) (length : Nat) (s : State),
    i.distFields = some (d, x) → d ≤ 29 → s.phase = .distExtra kind length d →
    s.wpos % 8 = 0 →
    let dist := distBase d + x
    (1 ≤ dist ∧ dist ≤ 32768) ∧
    (dist ≤ s.window → dist ≤ s.olen →
      ∃ t, exec i s = .next t ∧
        t = { s with
          rpos := s.rpos + distExtra d, wpos := s.wpos + 8 * length, obuf := t.obuf
          phase := .data kind } ∧
        (∀ k < length, t.obufAt (s.olen + k) = t.obufAt (s.olen + k - dist)) ∧
        ∀ a, (a < s.olen ∨ s.olen + length ≤ a) → t.obufAt a = s.obufAt a) ∧
    (s.window < dist ∨ s.olen < dist →
      ∃ t, exec i s = .next t ∧ keptAfterDecodeError .windowSizeExceeded s t)

/-- R108, R276, R277: `DYN_HDR` checks the counts and clears `LEN_CL`; each `DYN_CL_LEN` is the next
entry in the order `CLORD`, and after the last one the code-length code must be complete. -/
def Obligations.DynamicHeader : Prop :=
  (∀ (s : State) (hlit hdist : BitVec 5) (hclen : BitVec 4), s.phase = .dynHdr →
    (286 < hlit.toNat + 257 ∨ 30 < hdist.toNat + 1 →
      ∃ t, exec (.dynHdr hlit hdist hclen) s = .next t ∧
        keptAfterDecodeError .invalidHuffmanCode s t) ∧
    (hlit.toNat + 257 ≤ 286 → hdist.toNat + 1 ≤ 30 →
      ∃ t, exec (.dynHdr hlit hdist hclen) s = .next t ∧
        t = { s with
          rpos := s.rpos + 14, lenCL := t.lenCL
          phase := .dynClLen (hlit.toNat + 257) (hdist.toNat + 1) (hclen.toNat + 4) 0 } ∧
        ∀ k < 19, t.lenAt .cl k = 0)) ∧
  ∀ (s : State) (v : BitVec 3) (nl nd nc j : Nat), s.phase = .dynClLen nl nd nc j →
    let lens := ({ s with lenCL := s.lenCL.write (clOrder.getD j 0) v } : State).lens .cl
    (j + 1 < nc → exec (.dynClLen v) s = .next { s with
      rpos := s.rpos + 3, lenCL := s.lenCL.write (clOrder.getD j 0) v
      phase := .dynClLen nl nd nc (j + 1) }) ∧
    (nc ≤ j + 1 → kraftSum 7 lens = 2 ^ 7 → exec (.dynClLen v) s = .next { s with
      rpos := s.rpos + 3, lenCL := s.lenCL.write (clOrder.getD j 0) v
      dtblCL := builtTable .cl lens, phase := .dynLens nl nd [] }) ∧
    (nc ≤ j + 1 → kraftSum 7 lens ≠ 2 ^ 7 →
      ∃ t, exec (.dynClLen v) s = .next t ∧ keptAfterDecodeError .invalidHuffmanCode s t)

/-- R109, R278, R279: each of `CL_0` to `CL_18` appends its lengths; a repeat of nothing and an overrun
are refused; the full sequence is loaded, or refused when symbol 256 has no length or a code is not
accepted. -/
def Obligations.CodeLengthSymbols : Prop :=
  ∀ (i : Instr) (k n x nl nd : Nat) (seq : List Nat) (s : State), i.clFields = some (k, n, x) →
    s.phase = .dynLens nl nd seq →
    let more :=
      if k ≤ 15 then [k]
      else if k = 16 then List.replicate (3 + x) (seq.getLastD 0)
      else if k = 17 then List.replicate (3 + x) 0
      else List.replicate (11 + x) 0
    let all := seq ++ more
    let ll := all.take nl ++ List.replicate (288 - nl) 0
    let d := all.drop nl ++ List.replicate (32 - (all.length - nl)) 0
    ((k = 16 ∧ seq = []) ∨ nl + nd < all.length ∨
        (all.length = nl + nd ∧
          (ll.getD 256 0 = 0 ∨ codeAccepted .ll ll = false ∨ codeAccepted .d d = false)) →
      ∃ t, exec i s = .next t ∧ keptAfterDecodeError .invalidHuffmanCode s t) ∧
    (¬(k = 16 ∧ seq = []) → all.length < nl + nd →
      exec i s = .next { s with
        rpos := s.rpos + (n + clExtra k), phase := .dynLens nl nd all }) ∧
    (¬(k = 16 ∧ seq = []) → all.length = nl + nd → ll.getD 256 0 ≠ 0 →
      codeAccepted .ll ll = true → codeAccepted .d d = true →
      exec i s = .next { (s.setLens .ll ll).setLens .d d with
        rpos := s.rpos + (n + clExtra k), dtblLL := builtTable .ll ll, dtblD := builtTable .d d
        phase := .data .dynamic })

/-- R310, R333, R335: the zlib header is accepted or raises `InvalidHeader`; the trailer equals the
checksum of the output, which ends `DECOMPRESS`, or raises `ChecksumMismatch`. -/
def Obligations.ZlibElements : Prop :=
  (∀ (s : State) (cmf flg : BitVec 8), s.phase = .zlibHdr →
    if cmf.toNat % 16 = 8 ∧ cmf.toNat / 16 ≤ 7 ∧ (cmf.toNat * 256 + flg.toNat) % 31 = 0 ∧
        flg.toNat / 32 % 2 = 0 then
      exec (.zlibHdr cmf flg) s = .next { s with rpos := s.rpos + 16, phase := .blockHdr }
    else
      ∃ t, exec (.zlibHdr cmf flg) s = .next t ∧ keptAfterDecodeError .invalidHeader s t) ∧
  ∀ (s : State) (sum : BitVec 32), s.phase = .zlibAdler →
    (sum = BitVec.ofNat 32 (adlerOf s.outputBytes) →
      ∃ t, exec (.zlibAdler sum) s = .next t ∧
        t = { s with
          status := .done, rpos := s.rpos + 32, adler := sum, icons := (s.rpos + 32) / 8
          phase := .idle, freqLL := t.freqLL, freqD := t.freqD, freqCL := t.freqCL
          lenLL := t.lenLL, lenD := t.lenD, lenCL := t.lenCL
          codeLL := t.codeLL, codeD := t.codeD, codeCL := t.codeCL
          dtblLL := t.dtblLL, dtblD := t.dtblD, dtblCL := t.dtblCL, fresh := t.fresh }) ∧
    (sum ≠ BitVec.ofNat 32 (adlerOf s.outputBytes) →
      ∃ t, exec (.zlibAdler sum) s = .next t ∧ keptAfterDecodeError .checksumMismatch s t)

/-- R100, R112: bits mean an element only in its own decode mode; in any other the element's meaning
stops (the model's own fault, assumption log 15; no step reaches it). -/
def Obligations.ElementOutOfModeStops : Prop :=
  ∀ (i : Instr) (s : State), encodeHost i = none → s.phase.admits i = false →
    exec i s = .fault .elementOutOfMode

/-- R332: `ADLER32` puts the checksum of the input into `RES0` and `ADLER` and changes nothing else; the
checksum is the spec's recurrence. -/
def Obligations.Adler32Result : Prop :=
  (∀ s : State, exec .adler32 s = .next { s with
    status := .done, err := none
    res0 := BitVec.ofNat 32 (adlerOf s.inputBytes)
    adler := BitVec.ofNat 32 (adlerOf s.inputBytes) }) ∧
  adlerOf [] = 1 ∧
  ∀ (bs : List Byte) (x : Byte),
    let a := (adlerOf bs % 65536 + x.toNat) % 65521
    adlerOf (bs ++ [x]) = (adlerOf bs / 65536 + a) % 65521 * 65536 + a

end Statements
end

