-- ==== Sys2Proof/Laws/Bits.lean ====
section
/-! SUPPORT. The laws of bit fields: lengths, single bits, and the value of a list of bits. -/

namespace Sys2Proof

@[simp] theorem length_bitsOf (v n : Nat) : (bitsOf v n).length = n := by simp [bitsOf]

@[simp] theorem bitsOf_zero (v : Nat) : bitsOf v 0 = [] := rfl

theorem getElem_bitsOf (v n i : Nat) (h : i < (bitsOf v n).length) :
    (bitsOf v n)[i] = v.testBit i := by simp [bitsOf]

theorem bitsOf_succ (v n : Nat) : bitsOf v (n + 1) = v.testBit 0 :: bitsOf (v / 2) n := by
  simp only [bitsOf, List.range_succ_eq_map, List.map_cons, List.map_map]
  congr 1
  refine List.map_congr_left fun i _ => ?_
  simp [Nat.testBit_succ]

@[simp] theorem ofBits_nil : ofBits [] = 0 := rfl

theorem ofBits_cons (b : Bool) (bs : List Bool) : ofBits (b :: bs) = b.toNat + 2 * ofBits bs := rfl

theorem ofBits_lt (bs : List Bool) : ofBits bs < 2 ^ bs.length := by
  induction bs with
  | nil => simp
  | cons b bs ih =>
    rw [ofBits_cons, List.length_cons, Nat.pow_succ]
    have := Bool.toNat_le b
    omega

theorem ofBits_bitsOf (v n : Nat) : ofBits (bitsOf v n) = v % 2 ^ n := by
  induction n generalizing v with
  | zero => simp [Nat.mod_one]
  | succ n ih =>
    rw [bitsOf_succ, ofBits_cons, ih, Nat.pow_succ, Nat.mul_comm (2 ^ n) 2, Nat.mod_mul]
    simp [Nat.testBit_zero, Bool.toNat]
    rcases Nat.mod_two_eq_zero_or_one v with h | h <;> simp [h]

theorem testBit_ofBits (bs : List Bool) (i : Nat) : (ofBits bs).testBit i = bs.getD i false := by
  induction bs generalizing i with
  | nil => simp
  | cons b bs ih =>
    rw [ofBits_cons]
    cases i with
    | zero => cases b <;> simp [Nat.testBit_zero, Nat.add_mod]
    | succ i =>
      have : (b.toNat + 2 * ofBits bs) / 2 = ofBits bs := by have := Bool.toNat_le b; omega
      simp [Nat.testBit_succ, this, ih]

theorem testBit_fieldAt (bit : Nat → Bool) (off n i : Nat) :
    (fieldAt bit off n).testBit i = (decide (i < n) && bit (off + i)) := by
  rw [fieldAt, testBit_ofBits]
  by_cases h : i < n <;> simp [h, List.getD_eq_getElem?_getD]

theorem fieldAt_lt (bit : Nat → Bool) (off n : Nat) : fieldAt bit off n < 2 ^ n := by
  simpa [fieldAt] using ofBits_lt ((List.range n).map fun i => bit (off + i))

theorem revBits_lt (n c : Nat) : revBits n c < 2 ^ n := by
  simpa [revBits] using ofBits_lt (bitsOf c n).reverse

end Sys2Proof
end

