-- ==== Sys2Proof/Laws/Encoder.lean ====
section
/-! SUPPORT. The run-length coding of code lengths (spec/44_block_encoder.md R252): the pairs of `CLSeq`
expand back, as spec/30_encoding.md R109 reads them, to the lengths they were made from. -/

namespace Sys2Proof.Machine

/-- The elements a `takeWhile` run covers are copies of the value. -/
theorem take_eq_replicate_of_le_run {v : Nat} (t : List Nat) {k : Nat}
    (h : k ≤ (t.takeWhile (· = v)).length) : t.take k = List.replicate k v := by
  induction t generalizing k with
  | nil => simp at h; simp [h]
  | cons x xs ih =>
    by_cases hx : x = v
    · rw [List.takeWhile_cons_of_pos (by simpa using hx)] at h
      cases k with
      | zero => rfl
      | succ k => simp [List.replicate_succ, hx, ih (by simpa using h)]
    · rw [List.takeWhile_cons_of_neg (by simpa using hx)] at h
      simp at h
      simp [h]

theorem getLastD_append_replicate {v k : Nat} (acc : List Nat) (h : acc.getLastD 0 = v) :
    (acc ++ List.replicate k v).getLastD 0 = v := by
  cases k with
  | zero => simpa using h
  | succ k => simp [List.replicate_succ', ← List.append_assoc]

/-- The repeats cover at most the run, and expand to that many copies of the last length. -/
theorem clRepeats_expand (fuel run v : Nat) (acc : List Nat) (h : acc.getLastD 0 = v) :
    (clRepeats fuel run).2 ≤ run ∧
      (clRepeats fuel run).1.foldl expandPair acc = acc ++ List.replicate (clRepeats fuel run).2 v := by
  induction fuel generalizing run acc with
  | zero => simp [clRepeats]
  | succ fuel ih =>
    unfold clRepeats
    split
    · simp
    · next hr =>
      have hk : 3 + (min run 6 - 3) = min run 6 := by omega
      obtain ⟨hle, he⟩ := ih (run - min run 6) (acc ++ List.replicate (min run 6) v)
        (getLastD_append_replicate acc h)
      refine ⟨by simp only; omega, ?_⟩
      have hp : expandPair acc (16, min run 6 - 3) = acc ++ List.replicate (min run 6) v := by
        simp only [expandPair, show ¬(16 ≤ 15) by omega, if_false, if_true, hk, h]
      rw [List.foldl_cons, hp, he, List.append_assoc, List.replicate_append_replicate]

/-- R252: the pairs of `CLSeq` expand to the sequence. -/
theorem clSequence_expand (fuel : Nat) (seq acc : List Nat) (hf : seq.length ≤ fuel)
    (hs : ∀ n ∈ seq, n ≤ 15) : (clSequence fuel seq).foldl expandPair acc = acc ++ seq := by
  induction fuel generalizing seq acc with
  | zero =>
    obtain rfl : seq = [] := List.eq_nil_of_length_eq_zero (by omega)
    simp [clSequence]
  | succ fuel ih =>
    match seq with
    | [] => simp [clSequence]
    | v :: t =>
      have ht : t.length ≤ fuel := by simpa using hf
      have drops : ∀ k, 0 < k → ((v :: t).drop k).length ≤ fuel ∧ ∀ n ∈ (v :: t).drop k, n ≤ 15 :=
        fun k hk => ⟨by rw [List.length_drop]; simp; omega,
          fun n hn => hs n (List.mem_of_mem_drop hn)⟩
      have zeros : ∀ k, v = 0 → k ≤ (t.takeWhile (· = v)).length + 1 →
          List.replicate k 0 ++ (v :: t).drop k = v :: t := by
        intro k hv hk
        subst hv
        rw [← take_eq_replicate_of_le_run (v := 0) (0 :: t) (by simpa using hk),
          List.take_append_drop]
      unfold clSequence
      simp only
      split
      · next hv =>
        split
        · next hr =>
          obtain ⟨h1, h2⟩ := drops (min ((t.takeWhile (· = v)).length + 1) 138) (by omega)
          rw [List.foldl_cons, ih _ _ h1 h2, expandPair, List.append_assoc]
          simp only [show ¬(18 ≤ 15) by omega, show ¬(18 = 16) by omega, show ¬(18 = 17) by omega,
            if_false]
          rw [show 11 + (min ((t.takeWhile (· = v)).length + 1) 138 - 11) =
            min ((t.takeWhile (· = v)).length + 1) 138 by omega, zeros _ hv (by omega)]
        · split
          · next hr =>
            obtain ⟨h1, h2⟩ := drops ((t.takeWhile (· = v)).length + 1) (by omega)
            rw [List.foldl_cons, ih _ _ h1 h2, expandPair, List.append_assoc]
            simp only [show ¬(17 ≤ 15) by omega, show ¬(17 = 16) by omega, if_false, if_true]
            rw [show 3 + ((t.takeWhile (· = v)).length + 1 - 3) =
              (t.takeWhile (· = v)).length + 1 by omega, zeros _ hv (by omega)]
          · rw [List.foldl_cons, ih t _ ht fun n hn => hs n (by simp [hn]), hv]
            simp [expandPair]
      · have hv : v ≤ 15 := hs v (by simp)
        obtain ⟨hle, he⟩ := clRepeats_expand ((t.takeWhile (· = v)).length + 1)
          ((t.takeWhile (· = v)).length + 1 - 1) v (acc ++ [v]) (by simp)
        rw [List.foldl_append, List.foldl_cons, show expandPair acc (v, 0) = acc ++ [v] by
          simp [expandPair, hv], he, ih _ _ (by rw [List.length_drop]; omega)
            fun n hn => hs n (by simp [List.mem_of_mem_drop hn])]
        rw [← take_eq_replicate_of_le_run t (by omega : _ ≤ _)]
        simp

/-- R252, R253: what a dynamic block's header sends, read back, is its two tables of lengths. -/
theorem dynPlan_pairs_expand (ts : List Token) {seq : List Nat}
    (hseq : seq = (dynPlan ts).ll.take (dynPlan ts).nl ++ (dynPlan ts).d.take (dynPlan ts).nd)
    (h : ∀ n ∈ seq, n ≤ 15) : (dynPlan ts).pairs.foldl expandPair [] = seq := by
  have hp : (dynPlan ts).pairs = clSequence seq.length seq := by rw [hseq]; simp only [dynPlan]
  rw [hp, clSequence_expand seq.length seq [] (Nat.le_refl _) h, List.nil_append]

end Sys2Proof.Machine
end

