-- ==== Sys2Proof/Laws/Memory.lean ====
section
/-! SUPPORT. The laws of a space: reading after writing, the unspecified contents, and the canonical
form, which every operation keeps. -/

namespace Sys2Proof.Machine

variable {w : Nat}

/-! ### Lookup in a list of cells -/

@[simp] theorem findCell_nil (i : Nat) : findCell ([] : List (Nat × BitVec w)) i = none := rfl

theorem findCell_cons (a : Nat) (v : BitVec w) (t : List (Nat × BitVec w)) (i : Nat) :
    findCell ((a, v) :: t) i = if a = i then some v else findCell t i := rfl

theorem findCell_append (l t : List (Nat × BitVec w)) (i : Nat) :
    findCell (l ++ t) i = (findCell l i).or (findCell t i) := by
  induction l with
  | nil => simp
  | cons c l ih =>
    obtain ⟨a, v⟩ := c
    by_cases h : a = i <;> simp [findCell_cons, h, ih]

/-- A filter on indices keeps exactly the cells at the indices it admits. -/
theorem findCell_filter (p : Nat → Bool) (l : List (Nat × BitVec w)) (i : Nat) :
    findCell (l.filter fun c => p c.1) i = if p i then findCell l i else none := by
  induction l with
  | nil => simp
  | cons c l ih =>
    obtain ⟨a, v⟩ := c
    by_cases h : a = i
    · subst h
      cases hp : p a <;> simp [findCell_cons, hp, ih]
    · cases hp : p a <;> simp [findCell_cons, hp, h, ih]

theorem findCell_runCells (start : Nat) (vs : List (BitVec w)) (i : Nat) :
    findCell (runCells start vs) i = if start ≤ i then vs[i - start]? else none := by
  induction vs generalizing start with
  | nil => simp [runCells]
  | cons v vs ih =>
    rw [runCells, findCell_cons, ih]
    by_cases h : start = i
    · subst h; simp
    · by_cases h' : start ≤ i
      · have e : i - start = (i - (start + 1)) + 1 := by omega
        have h1 : start + 1 ≤ i := by omega
        simp [h, h', h1, e]
      · have h1 : ¬ start + 1 ≤ i := by omega
        simp [h, h', h1]

/-! ### Reading -/

theorem Memory.read_unspecified (tag sp i : Nat) :
    (Memory.unspecified tag : Memory w).read sp i = (Config.freeWord sp tag i).setWidth w := rfl

/-- A write of consecutive elements is read back. -/
theorem Memory.read_writeRun_mem (m : Memory w) (start : Nat) (vs : List (BitVec w)) (sp i : Nat)
    (h₁ : start ≤ i) (h₂ : i < start + vs.length) :
    (m.writeRun start vs).read sp i = vs[i - start]'(by omega) := by
  have h : i - start < vs.length := by omega
  have hn : ¬ i < start := by omega
  unfold Memory.read Memory.writeRun
  simp only [findCell_append, findCell_filter (fun a => decide (a < start)), findCell_runCells,
    h₁, hn, h, decide_false, Bool.false_eq_true, if_false, if_true, Option.none_or,
    List.getElem?_eq_getElem, Option.some_or]

/-- Every other element reads as before. -/
theorem Memory.read_writeRun_of_outside (m : Memory w) (start : Nat) (vs : List (BitVec w))
    (sp i : Nat) (h : i < start ∨ start + vs.length ≤ i) :
    (m.writeRun start vs).read sp i = m.read sp i := by
  unfold Memory.read Memory.writeRun
  simp only [findCell_append, findCell_filter (fun a => decide (a < start)), findCell_runCells,
    findCell_filter (fun a => decide (start + vs.length ≤ a))]
  rcases h with h | h
  · have h1 : ¬ start ≤ i := by omega
    have h2 : ¬ start + vs.length ≤ i := by omega
    simp [h, h1, h2]
  · have h1 : ¬ i < start := by omega
    have h2 : start ≤ i := by omega
    have h3 : vs[i - start]? = none := by simp; omega
    simp [h, h1, h2, h3]

theorem Memory.read_write_self (m : Memory w) (i : Nat) (v : BitVec w) (sp : Nat) :
    (m.write i v).read sp i = v := by
  have := m.read_writeRun_mem i [v] sp i (Nat.le_refl i) (by simp)
  rw [Memory.write, this]
  simp

theorem Memory.read_write_of_ne (m : Memory w) {i j : Nat} (v : BitVec w) (sp : Nat) (h : j ≠ i) :
    (m.write i v).read sp j = m.read sp j :=
  m.read_writeRun_of_outside i [v] sp j (by simp; omega)

/-- An element below the bound survives the forgetting of what is above it, if it was written. -/
theorem Memory.read_keepBelow (m : Memory w) (n tag sp i : Nat) (v : BitVec w)
    (h : i < n) (hv : findCell m.cells i = some v) : (m.keepBelow n tag).read sp i = v := by
  unfold Memory.read Memory.keepBelow
  simp [findCell_filter (fun a => decide (a < n)), h, hv]

@[simp] theorem Memory.length_readRun (m : Memory w) (sp start n : Nat) :
    (m.readRun sp start n).length = n := by simp [Memory.readRun]

/-! ### The canonical form -/

theorem Memory.wf_iff (m : Memory w) :
    m.wf = true ↔ m.cells.Pairwise fun a b => a.1 < b.1 := by simp [Memory.wf]

theorem Memory.below_iff (m : Memory w) (n : Nat) :
    m.below n = true ↔ ∀ c ∈ m.cells, c.1 < n := by simp [Memory.below]

theorem mem_runCells {start : Nat} {vs : List (BitVec w)} {c : Nat × BitVec w}
    (h : c ∈ runCells start vs) : start ≤ c.1 ∧ c.1 < start + vs.length := by
  induction vs generalizing start with
  | nil => simp [runCells] at h
  | cons v vs ih =>
    rcases List.mem_cons.1 h with rfl | h
    · simp
    · have := ih h
      simp only [List.length_cons]
      omega

theorem pairwise_runCells (start : Nat) (vs : List (BitVec w)) :
    (runCells start vs).Pairwise fun a b => a.1 < b.1 := by
  induction vs generalizing start with
  | nil => exact List.Pairwise.nil
  | cons v vs ih =>
    refine List.Pairwise.cons (fun c hc => ?_) (ih _)
    have := mem_runCells hc
    simp only
    omega

theorem Memory.wf_unspecified (tag : Nat) : (Memory.unspecified tag : Memory w).wf = true := rfl

theorem Memory.wf_writeRun (m : Memory w) (start : Nat) (vs : List (BitVec w)) (h : m.wf = true) :
    (m.writeRun start vs).wf = true := by
  rw [Memory.wf_iff] at h ⊢
  simp only [Memory.writeRun, List.pairwise_append, List.mem_append, List.mem_filter,
    decide_eq_true_eq]
  refine ⟨⟨h.filter _, pairwise_runCells _ _, ?_⟩, h.filter _, ?_⟩
  · rintro a ⟨-, ha⟩ b hb
    have := mem_runCells hb
    omega
  · rintro a (⟨-, ha⟩ | ha) b ⟨-, hb⟩
    · omega
    · have := mem_runCells ha
      omega

theorem Memory.wf_write (m : Memory w) (i : Nat) (v : BitVec w) (h : m.wf = true) :
    (m.write i v).wf = true := m.wf_writeRun i [v] h

theorem Memory.wf_keepBelow (m : Memory w) (n tag : Nat) (h : m.wf = true) :
    (m.keepBelow n tag).wf = true := by
  rw [Memory.wf_iff] at h ⊢
  exact h.filter _

theorem Memory.below_writeRun (m : Memory w) (start n : Nat) (vs : List (BitVec w))
    (h : m.below n = true) (hn : start + vs.length ≤ n) : (m.writeRun start vs).below n = true := by
  rw [Memory.below_iff] at h ⊢
  simp only [Memory.writeRun, List.mem_append, List.mem_filter]
  rintro c ((⟨hc, -⟩ | hc) | ⟨hc, -⟩)
  · exact h c hc
  · have := mem_runCells hc
    omega
  · exact h c hc

theorem Memory.below_write (m : Memory w) (i n : Nat) (v : BitVec w) (h : m.below n = true)
    (hn : i < n) : (m.write i v).below n = true := m.below_writeRun i n [v] h (by simp; omega)

theorem Memory.below_unspecified (n tag : Nat) :
    (Memory.unspecified tag : Memory w).below n = true := rfl

/-- In canonical form equal contents are equal data: the cells at and above an index are those of the
rest of the list. -/
theorem findCell_of_pairwise_lt {l : List (Nat × BitVec w)} {c : Nat × BitVec w}
    (h : (c :: l).Pairwise fun a b => a.1 < b.1) {i : Nat} (hi : i ≤ c.1) : findCell l i = none := by
  have hl := (List.pairwise_cons.1 h).1
  clear h
  induction l with
  | nil => rfl
  | cons d l ih =>
    obtain ⟨b, v⟩ := d
    have hb := hl (b, v) (by simp)
    have hne : b ≠ i := by simp at hb; omega
    rw [findCell_cons, if_neg hne]
    exact ih fun x hx => hl x (by simp [hx])

theorem cells_ext {l t : List (Nat × BitVec w)} (hl : l.Pairwise fun a b => a.1 < b.1)
    (ht : t.Pairwise fun a b => a.1 < b.1) (h : ∀ i, findCell l i = findCell t i) : l = t := by
  induction l generalizing t with
  | nil =>
    cases t with
    | nil => rfl
    | cons c t => have := h c.1; obtain ⟨a, v⟩ := c; simp [findCell_cons] at this
  | cons c l ih =>
    obtain ⟨a, v⟩ := c
    cases t with
    | nil => have := h a; simp [findCell_cons] at this
    | cons d t =>
      obtain ⟨b, u⟩ := d
      have hab : a = b := by
        rcases Nat.lt_trichotomy a b with hlt | heq | hgt
        · have := h a
          rw [findCell_cons, if_pos rfl, findCell_cons, if_neg (by omega),
            findCell_of_pairwise_lt ht (by simp; omega)] at this
          simp at this
        · exact heq
        · have := h b
          rw [findCell_cons, if_neg (by omega), findCell_cons, if_pos rfl,
            findCell_of_pairwise_lt hl (by simp; omega)] at this
          simp at this
      subst hab
      have huv : v = u := by simpa [findCell_cons] using h a
      subst huv
      congr 1
      refine ih (List.pairwise_cons.1 hl).2 (List.pairwise_cons.1 ht).2 fun i => ?_
      by_cases hi : a = i
      · subst hi
        rw [findCell_of_pairwise_lt hl (Nat.le_refl _), findCell_of_pairwise_lt ht (Nat.le_refl _)]
      · simpa [findCell_cons, hi] using h i

/-- Equal memories are equal data. -/
theorem Memory.ext_of_wf {m n : Memory w} (hm : m.wf = true) (hn : n.wf = true) (ht : m.tag = n.tag)
    (h : ∀ i, findCell m.cells i = findCell n.cells i) : m = n := by
  obtain ⟨a, s⟩ := m
  obtain ⟨b, t⟩ := n
  simp only [Memory.wf_iff] at hm hn h
  simp only at ht
  subst ht
  rw [cells_ext hm hn h]

/-! ### Reset -/

theorem State.reset_wf :
    State.reset.ibuf.wf && State.reset.obuf.wf && State.reset.freqLL.wf && State.reset.freqD.wf &&
      State.reset.freqCL.wf && State.reset.lenLL.wf && State.reset.lenD.wf && State.reset.lenCL.wf &&
      State.reset.codeLL.wf && State.reset.codeD.wf && State.reset.codeCL.wf &&
      State.reset.tok.wf = true := by decide

end Sys2Proof.Machine
end

