-- ==== Sys2Proof/Laws/State.lean ====
section
/-! SUPPORT. What every named update of the state does to every field: one lemma per field and update.
Where an update changes a field the lemma gives the new value; elsewhere it says the field stays. -/

namespace Sys2Proof.Machine

variable (s : State)

/-! ### `State.begin` -/

@[simp] theorem State.begin_status : s.begin.status = .busy := rfl
@[simp] theorem State.begin_err : s.begin.err = none := rfl
@[simp] theorem State.begin_cfgLevel : s.begin.cfgLevel = s.cfgLevel := rfl
@[simp] theorem State.begin_cfgWbits : s.begin.cfgWbits = s.cfgWbits := rfl
@[simp] theorem State.begin_cfgStrategy : s.begin.cfgStrategy = s.cfgStrategy := rfl
@[simp] theorem State.begin_cfgFraming : s.begin.cfgFraming = s.cfgFraming := rfl
@[simp] theorem State.begin_ilen : s.begin.ilen = s.ilen := rfl
@[simp] theorem State.begin_icons : s.begin.icons = s.icons := rfl
@[simp] theorem State.begin_rpos : s.begin.rpos = s.rpos := rfl
@[simp] theorem State.begin_wpos : s.begin.wpos = s.wpos := rfl
@[simp] theorem State.begin_ntok : s.begin.ntok = s.ntok := rfl
@[simp] theorem State.begin_adler : s.begin.adler = s.adler := rfl
@[simp] theorem State.begin_arg0 : s.begin.arg0 = s.arg0 := rfl
@[simp] theorem State.begin_arg1 : s.begin.arg1 = s.arg1 := rfl
@[simp] theorem State.begin_arg2 : s.begin.arg2 = s.arg2 := rfl
@[simp] theorem State.begin_arg3 : s.begin.arg3 = s.arg3 := rfl
@[simp] theorem State.begin_res0 : s.begin.res0 = s.res0 := rfl
@[simp] theorem State.begin_res1 : s.begin.res1 = s.res1 := rfl
@[simp] theorem State.begin_res2 : s.begin.res2 = s.res2 := rfl
@[simp] theorem State.begin_res3 : s.begin.res3 = s.res3 := rfl
@[simp] theorem State.begin_ibuf : s.begin.ibuf = s.ibuf := rfl
@[simp] theorem State.begin_obuf : s.begin.obuf = s.obuf := rfl
@[simp] theorem State.begin_freqLL : s.begin.freqLL = s.freqLL := rfl
@[simp] theorem State.begin_freqD : s.begin.freqD = s.freqD := rfl
@[simp] theorem State.begin_freqCL : s.begin.freqCL = s.freqCL := rfl
@[simp] theorem State.begin_lenLL : s.begin.lenLL = s.lenLL := rfl
@[simp] theorem State.begin_lenD : s.begin.lenD = s.lenD := rfl
@[simp] theorem State.begin_lenCL : s.begin.lenCL = s.lenCL := rfl
@[simp] theorem State.begin_codeLL : s.begin.codeLL = s.codeLL := rfl
@[simp] theorem State.begin_codeD : s.begin.codeD = s.codeD := rfl
@[simp] theorem State.begin_codeCL : s.begin.codeCL = s.codeCL := rfl
@[simp] theorem State.begin_tok : s.begin.tok = s.tok := rfl
@[simp] theorem State.begin_dtblLL : s.begin.dtblLL = s.dtblLL := rfl
@[simp] theorem State.begin_dtblD : s.begin.dtblD = s.dtblD := rfl
@[simp] theorem State.begin_dtblCL : s.begin.dtblCL = s.dtblCL := rfl
@[simp] theorem State.begin_phase : s.begin.phase = s.phase := rfl
@[simp] theorem State.begin_run : s.begin.run = s.run := rfl
@[simp] theorem State.begin_fresh : s.begin.fresh = s.fresh := rfl
@[simp] theorem State.begin_host : s.begin.host = s.host := rfl
@[simp] theorem State.begin_hostData : s.begin.hostData = s.hostData := rfl

/-! ### `State.finish` -/

@[simp] theorem State.finish_status : s.finish.status = .done := rfl
@[simp] theorem State.finish_err : s.finish.err = s.err := rfl
@[simp] theorem State.finish_cfgLevel : s.finish.cfgLevel = s.cfgLevel := rfl
@[simp] theorem State.finish_cfgWbits : s.finish.cfgWbits = s.cfgWbits := rfl
@[simp] theorem State.finish_cfgStrategy : s.finish.cfgStrategy = s.cfgStrategy := rfl
@[simp] theorem State.finish_cfgFraming : s.finish.cfgFraming = s.cfgFraming := rfl
@[simp] theorem State.finish_ilen : s.finish.ilen = s.ilen := rfl
@[simp] theorem State.finish_icons : s.finish.icons = s.icons := rfl
@[simp] theorem State.finish_rpos : s.finish.rpos = s.rpos := rfl
@[simp] theorem State.finish_wpos : s.finish.wpos = s.wpos := rfl
@[simp] theorem State.finish_ntok : s.finish.ntok = s.ntok := rfl
@[simp] theorem State.finish_adler : s.finish.adler = s.adler := rfl
@[simp] theorem State.finish_arg0 : s.finish.arg0 = s.arg0 := rfl
@[simp] theorem State.finish_arg1 : s.finish.arg1 = s.arg1 := rfl
@[simp] theorem State.finish_arg2 : s.finish.arg2 = s.arg2 := rfl
@[simp] theorem State.finish_arg3 : s.finish.arg3 = s.arg3 := rfl
@[simp] theorem State.finish_res0 : s.finish.res0 = s.res0 := rfl
@[simp] theorem State.finish_res1 : s.finish.res1 = s.res1 := rfl
@[simp] theorem State.finish_res2 : s.finish.res2 = s.res2 := rfl
@[simp] theorem State.finish_res3 : s.finish.res3 = s.res3 := rfl
@[simp] theorem State.finish_ibuf : s.finish.ibuf = s.ibuf := rfl
@[simp] theorem State.finish_obuf : s.finish.obuf = s.obuf := rfl
@[simp] theorem State.finish_freqLL : s.finish.freqLL = s.freqLL := rfl
@[simp] theorem State.finish_freqD : s.finish.freqD = s.freqD := rfl
@[simp] theorem State.finish_freqCL : s.finish.freqCL = s.freqCL := rfl
@[simp] theorem State.finish_lenLL : s.finish.lenLL = s.lenLL := rfl
@[simp] theorem State.finish_lenD : s.finish.lenD = s.lenD := rfl
@[simp] theorem State.finish_lenCL : s.finish.lenCL = s.lenCL := rfl
@[simp] theorem State.finish_codeLL : s.finish.codeLL = s.codeLL := rfl
@[simp] theorem State.finish_codeD : s.finish.codeD = s.codeD := rfl
@[simp] theorem State.finish_codeCL : s.finish.codeCL = s.codeCL := rfl
@[simp] theorem State.finish_tok : s.finish.tok = s.tok := rfl
@[simp] theorem State.finish_dtblLL : s.finish.dtblLL = s.dtblLL := rfl
@[simp] theorem State.finish_dtblD : s.finish.dtblD = s.dtblD := rfl
@[simp] theorem State.finish_dtblCL : s.finish.dtblCL = s.dtblCL := rfl
@[simp] theorem State.finish_phase : s.finish.phase = s.phase := rfl
@[simp] theorem State.finish_run : s.finish.run = s.run := rfl
@[simp] theorem State.finish_fresh : s.finish.fresh = s.fresh := rfl
@[simp] theorem State.finish_host : s.finish.host = s.host := rfl
@[simp] theorem State.finish_hostData : s.finish.hostData = s.hostData := rfl

/-! ### `State.flagError` -/

@[simp] theorem State.flagError_status (e : HwError) : (s.flagError e).status = .error := rfl
@[simp] theorem State.flagError_err (e : HwError) : (s.flagError e).err = some e := rfl
@[simp] theorem State.flagError_cfgLevel (e : HwError) : (s.flagError e).cfgLevel = s.cfgLevel := rfl
@[simp] theorem State.flagError_cfgWbits (e : HwError) : (s.flagError e).cfgWbits = s.cfgWbits := rfl
@[simp] theorem State.flagError_cfgStrategy (e : HwError) : (s.flagError e).cfgStrategy = s.cfgStrategy := rfl
@[simp] theorem State.flagError_cfgFraming (e : HwError) : (s.flagError e).cfgFraming = s.cfgFraming := rfl
@[simp] theorem State.flagError_ilen (e : HwError) : (s.flagError e).ilen = s.ilen := rfl
@[simp] theorem State.flagError_icons (e : HwError) : (s.flagError e).icons = s.icons := rfl
@[simp] theorem State.flagError_rpos (e : HwError) : (s.flagError e).rpos = s.rpos := rfl
@[simp] theorem State.flagError_wpos (e : HwError) : (s.flagError e).wpos = s.wpos := rfl
@[simp] theorem State.flagError_ntok (e : HwError) : (s.flagError e).ntok = s.ntok := rfl
@[simp] theorem State.flagError_adler (e : HwError) : (s.flagError e).adler = s.adler := rfl
@[simp] theorem State.flagError_arg0 (e : HwError) : (s.flagError e).arg0 = s.arg0 := rfl
@[simp] theorem State.flagError_arg1 (e : HwError) : (s.flagError e).arg1 = s.arg1 := rfl
@[simp] theorem State.flagError_arg2 (e : HwError) : (s.flagError e).arg2 = s.arg2 := rfl
@[simp] theorem State.flagError_arg3 (e : HwError) : (s.flagError e).arg3 = s.arg3 := rfl
@[simp] theorem State.flagError_res0 (e : HwError) : (s.flagError e).res0 = s.res0 := rfl
@[simp] theorem State.flagError_res1 (e : HwError) : (s.flagError e).res1 = s.res1 := rfl
@[simp] theorem State.flagError_res2 (e : HwError) : (s.flagError e).res2 = s.res2 := rfl
@[simp] theorem State.flagError_res3 (e : HwError) : (s.flagError e).res3 = s.res3 := rfl
@[simp] theorem State.flagError_ibuf (e : HwError) : (s.flagError e).ibuf = s.ibuf := rfl
@[simp] theorem State.flagError_obuf (e : HwError) : (s.flagError e).obuf = s.obuf := rfl
@[simp] theorem State.flagError_freqLL (e : HwError) : (s.flagError e).freqLL = s.freqLL := rfl
@[simp] theorem State.flagError_freqD (e : HwError) : (s.flagError e).freqD = s.freqD := rfl
@[simp] theorem State.flagError_freqCL (e : HwError) : (s.flagError e).freqCL = s.freqCL := rfl
@[simp] theorem State.flagError_lenLL (e : HwError) : (s.flagError e).lenLL = s.lenLL := rfl
@[simp] theorem State.flagError_lenD (e : HwError) : (s.flagError e).lenD = s.lenD := rfl
@[simp] theorem State.flagError_lenCL (e : HwError) : (s.flagError e).lenCL = s.lenCL := rfl
@[simp] theorem State.flagError_codeLL (e : HwError) : (s.flagError e).codeLL = s.codeLL := rfl
@[simp] theorem State.flagError_codeD (e : HwError) : (s.flagError e).codeD = s.codeD := rfl
@[simp] theorem State.flagError_codeCL (e : HwError) : (s.flagError e).codeCL = s.codeCL := rfl
@[simp] theorem State.flagError_tok (e : HwError) : (s.flagError e).tok = s.tok := rfl
@[simp] theorem State.flagError_dtblLL (e : HwError) : (s.flagError e).dtblLL = s.dtblLL := rfl
@[simp] theorem State.flagError_dtblD (e : HwError) : (s.flagError e).dtblD = s.dtblD := rfl
@[simp] theorem State.flagError_dtblCL (e : HwError) : (s.flagError e).dtblCL = s.dtblCL := rfl
@[simp] theorem State.flagError_phase (e : HwError) : (s.flagError e).phase = s.phase := rfl
@[simp] theorem State.flagError_run (e : HwError) : (s.flagError e).run = s.run := rfl
@[simp] theorem State.flagError_fresh (e : HwError) : (s.flagError e).fresh = s.fresh := rfl
@[simp] theorem State.flagError_host (e : HwError) : (s.flagError e).host = s.host := rfl
@[simp] theorem State.flagError_hostData (e : HwError) : (s.flagError e).hostData = s.hostData := rfl

/-! ### `State.skip` -/

@[simp] theorem State.skip_status (n : Nat) : (s.skip n).status = s.status := rfl
@[simp] theorem State.skip_err (n : Nat) : (s.skip n).err = s.err := rfl
@[simp] theorem State.skip_cfgLevel (n : Nat) : (s.skip n).cfgLevel = s.cfgLevel := rfl
@[simp] theorem State.skip_cfgWbits (n : Nat) : (s.skip n).cfgWbits = s.cfgWbits := rfl
@[simp] theorem State.skip_cfgStrategy (n : Nat) : (s.skip n).cfgStrategy = s.cfgStrategy := rfl
@[simp] theorem State.skip_cfgFraming (n : Nat) : (s.skip n).cfgFraming = s.cfgFraming := rfl
@[simp] theorem State.skip_ilen (n : Nat) : (s.skip n).ilen = s.ilen := rfl
@[simp] theorem State.skip_icons (n : Nat) : (s.skip n).icons = s.icons := rfl
@[simp] theorem State.skip_rpos (n : Nat) : (s.skip n).rpos = s.rpos + n := rfl
@[simp] theorem State.skip_wpos (n : Nat) : (s.skip n).wpos = s.wpos := rfl
@[simp] theorem State.skip_ntok (n : Nat) : (s.skip n).ntok = s.ntok := rfl
@[simp] theorem State.skip_adler (n : Nat) : (s.skip n).adler = s.adler := rfl
@[simp] theorem State.skip_arg0 (n : Nat) : (s.skip n).arg0 = s.arg0 := rfl
@[simp] theorem State.skip_arg1 (n : Nat) : (s.skip n).arg1 = s.arg1 := rfl
@[simp] theorem State.skip_arg2 (n : Nat) : (s.skip n).arg2 = s.arg2 := rfl
@[simp] theorem State.skip_arg3 (n : Nat) : (s.skip n).arg3 = s.arg3 := rfl
@[simp] theorem State.skip_res0 (n : Nat) : (s.skip n).res0 = s.res0 := rfl
@[simp] theorem State.skip_res1 (n : Nat) : (s.skip n).res1 = s.res1 := rfl
@[simp] theorem State.skip_res2 (n : Nat) : (s.skip n).res2 = s.res2 := rfl
@[simp] theorem State.skip_res3 (n : Nat) : (s.skip n).res3 = s.res3 := rfl
@[simp] theorem State.skip_ibuf (n : Nat) : (s.skip n).ibuf = s.ibuf := rfl
@[simp] theorem State.skip_obuf (n : Nat) : (s.skip n).obuf = s.obuf := rfl
@[simp] theorem State.skip_freqLL (n : Nat) : (s.skip n).freqLL = s.freqLL := rfl
@[simp] theorem State.skip_freqD (n : Nat) : (s.skip n).freqD = s.freqD := rfl
@[simp] theorem State.skip_freqCL (n : Nat) : (s.skip n).freqCL = s.freqCL := rfl
@[simp] theorem State.skip_lenLL (n : Nat) : (s.skip n).lenLL = s.lenLL := rfl
@[simp] theorem State.skip_lenD (n : Nat) : (s.skip n).lenD = s.lenD := rfl
@[simp] theorem State.skip_lenCL (n : Nat) : (s.skip n).lenCL = s.lenCL := rfl
@[simp] theorem State.skip_codeLL (n : Nat) : (s.skip n).codeLL = s.codeLL := rfl
@[simp] theorem State.skip_codeD (n : Nat) : (s.skip n).codeD = s.codeD := rfl
@[simp] theorem State.skip_codeCL (n : Nat) : (s.skip n).codeCL = s.codeCL := rfl
@[simp] theorem State.skip_tok (n : Nat) : (s.skip n).tok = s.tok := rfl
@[simp] theorem State.skip_dtblLL (n : Nat) : (s.skip n).dtblLL = s.dtblLL := rfl
@[simp] theorem State.skip_dtblD (n : Nat) : (s.skip n).dtblD = s.dtblD := rfl
@[simp] theorem State.skip_dtblCL (n : Nat) : (s.skip n).dtblCL = s.dtblCL := rfl
@[simp] theorem State.skip_phase (n : Nat) : (s.skip n).phase = s.phase := rfl
@[simp] theorem State.skip_run (n : Nat) : (s.skip n).run = s.run := rfl
@[simp] theorem State.skip_fresh (n : Nat) : (s.skip n).fresh = s.fresh := rfl
@[simp] theorem State.skip_host (n : Nat) : (s.skip n).host = s.host := rfl
@[simp] theorem State.skip_hostData (n : Nat) : (s.skip n).hostData = s.hostData := rfl

/-! ### `State.alignR` -/

@[simp] theorem State.alignR_status : s.alignR.status = s.status := rfl
@[simp] theorem State.alignR_err : s.alignR.err = s.err := rfl
@[simp] theorem State.alignR_cfgLevel : s.alignR.cfgLevel = s.cfgLevel := rfl
@[simp] theorem State.alignR_cfgWbits : s.alignR.cfgWbits = s.cfgWbits := rfl
@[simp] theorem State.alignR_cfgStrategy : s.alignR.cfgStrategy = s.cfgStrategy := rfl
@[simp] theorem State.alignR_cfgFraming : s.alignR.cfgFraming = s.cfgFraming := rfl
@[simp] theorem State.alignR_ilen : s.alignR.ilen = s.ilen := rfl
@[simp] theorem State.alignR_icons : s.alignR.icons = s.icons := rfl
@[simp] theorem State.alignR_rpos : s.alignR.rpos = 8 * ((s.rpos + 7) / 8) := rfl
@[simp] theorem State.alignR_wpos : s.alignR.wpos = s.wpos := rfl
@[simp] theorem State.alignR_ntok : s.alignR.ntok = s.ntok := rfl
@[simp] theorem State.alignR_adler : s.alignR.adler = s.adler := rfl
@[simp] theorem State.alignR_arg0 : s.alignR.arg0 = s.arg0 := rfl
@[simp] theorem State.alignR_arg1 : s.alignR.arg1 = s.arg1 := rfl
@[simp] theorem State.alignR_arg2 : s.alignR.arg2 = s.arg2 := rfl
@[simp] theorem State.alignR_arg3 : s.alignR.arg3 = s.arg3 := rfl
@[simp] theorem State.alignR_res0 : s.alignR.res0 = s.res0 := rfl
@[simp] theorem State.alignR_res1 : s.alignR.res1 = s.res1 := rfl
@[simp] theorem State.alignR_res2 : s.alignR.res2 = s.res2 := rfl
@[simp] theorem State.alignR_res3 : s.alignR.res3 = s.res3 := rfl
@[simp] theorem State.alignR_ibuf : s.alignR.ibuf = s.ibuf := rfl
@[simp] theorem State.alignR_obuf : s.alignR.obuf = s.obuf := rfl
@[simp] theorem State.alignR_freqLL : s.alignR.freqLL = s.freqLL := rfl
@[simp] theorem State.alignR_freqD : s.alignR.freqD = s.freqD := rfl
@[simp] theorem State.alignR_freqCL : s.alignR.freqCL = s.freqCL := rfl
@[simp] theorem State.alignR_lenLL : s.alignR.lenLL = s.lenLL := rfl
@[simp] theorem State.alignR_lenD : s.alignR.lenD = s.lenD := rfl
@[simp] theorem State.alignR_lenCL : s.alignR.lenCL = s.lenCL := rfl
@[simp] theorem State.alignR_codeLL : s.alignR.codeLL = s.codeLL := rfl
@[simp] theorem State.alignR_codeD : s.alignR.codeD = s.codeD := rfl
@[simp] theorem State.alignR_codeCL : s.alignR.codeCL = s.codeCL := rfl
@[simp] theorem State.alignR_tok : s.alignR.tok = s.tok := rfl
@[simp] theorem State.alignR_dtblLL : s.alignR.dtblLL = s.dtblLL := rfl
@[simp] theorem State.alignR_dtblD : s.alignR.dtblD = s.dtblD := rfl
@[simp] theorem State.alignR_dtblCL : s.alignR.dtblCL = s.dtblCL := rfl
@[simp] theorem State.alignR_phase : s.alignR.phase = s.phase := rfl
@[simp] theorem State.alignR_run : s.alignR.run = s.run := rfl
@[simp] theorem State.alignR_fresh : s.alignR.fresh = s.fresh := rfl
@[simp] theorem State.alignR_host : s.alignR.host = s.host := rfl
@[simp] theorem State.alignR_hostData : s.alignR.hostData = s.hostData := rfl

/-! ### `State.alignW` -/

@[simp] theorem State.alignW_status : s.alignW.status = s.status := rfl
@[simp] theorem State.alignW_err : s.alignW.err = s.err := rfl
@[simp] theorem State.alignW_cfgLevel : s.alignW.cfgLevel = s.cfgLevel := rfl
@[simp] theorem State.alignW_cfgWbits : s.alignW.cfgWbits = s.cfgWbits := rfl
@[simp] theorem State.alignW_cfgStrategy : s.alignW.cfgStrategy = s.cfgStrategy := rfl
@[simp] theorem State.alignW_cfgFraming : s.alignW.cfgFraming = s.cfgFraming := rfl
@[simp] theorem State.alignW_ilen : s.alignW.ilen = s.ilen := rfl
@[simp] theorem State.alignW_icons : s.alignW.icons = s.icons := rfl
@[simp] theorem State.alignW_rpos : s.alignW.rpos = s.rpos := rfl
@[simp] theorem State.alignW_wpos : s.alignW.wpos = 8 * ((s.wpos + 7) / 8) := rfl
@[simp] theorem State.alignW_ntok : s.alignW.ntok = s.ntok := rfl
@[simp] theorem State.alignW_adler : s.alignW.adler = s.adler := rfl
@[simp] theorem State.alignW_arg0 : s.alignW.arg0 = s.arg0 := rfl
@[simp] theorem State.alignW_arg1 : s.alignW.arg1 = s.arg1 := rfl
@[simp] theorem State.alignW_arg2 : s.alignW.arg2 = s.arg2 := rfl
@[simp] theorem State.alignW_arg3 : s.alignW.arg3 = s.arg3 := rfl
@[simp] theorem State.alignW_res0 : s.alignW.res0 = s.res0 := rfl
@[simp] theorem State.alignW_res1 : s.alignW.res1 = s.res1 := rfl
@[simp] theorem State.alignW_res2 : s.alignW.res2 = s.res2 := rfl
@[simp] theorem State.alignW_res3 : s.alignW.res3 = s.res3 := rfl
@[simp] theorem State.alignW_ibuf : s.alignW.ibuf = s.ibuf := rfl
@[simp] theorem State.alignW_obuf : s.alignW.obuf = s.obuf := rfl
@[simp] theorem State.alignW_freqLL : s.alignW.freqLL = s.freqLL := rfl
@[simp] theorem State.alignW_freqD : s.alignW.freqD = s.freqD := rfl
@[simp] theorem State.alignW_freqCL : s.alignW.freqCL = s.freqCL := rfl
@[simp] theorem State.alignW_lenLL : s.alignW.lenLL = s.lenLL := rfl
@[simp] theorem State.alignW_lenD : s.alignW.lenD = s.lenD := rfl
@[simp] theorem State.alignW_lenCL : s.alignW.lenCL = s.lenCL := rfl
@[simp] theorem State.alignW_codeLL : s.alignW.codeLL = s.codeLL := rfl
@[simp] theorem State.alignW_codeD : s.alignW.codeD = s.codeD := rfl
@[simp] theorem State.alignW_codeCL : s.alignW.codeCL = s.codeCL := rfl
@[simp] theorem State.alignW_tok : s.alignW.tok = s.tok := rfl
@[simp] theorem State.alignW_dtblLL : s.alignW.dtblLL = s.dtblLL := rfl
@[simp] theorem State.alignW_dtblD : s.alignW.dtblD = s.dtblD := rfl
@[simp] theorem State.alignW_dtblCL : s.alignW.dtblCL = s.dtblCL := rfl
@[simp] theorem State.alignW_phase : s.alignW.phase = s.phase := rfl
@[simp] theorem State.alignW_run : s.alignW.run = s.run := rfl
@[simp] theorem State.alignW_fresh : s.alignW.fresh = s.fresh := rfl
@[simp] theorem State.alignW_host : s.alignW.host = s.host := rfl
@[simp] theorem State.alignW_hostData : s.alignW.hostData = s.hostData := rfl

/-! ### `State.clearCursors` -/

@[simp] theorem State.clearCursors_status : s.clearCursors.status = s.status := rfl
@[simp] theorem State.clearCursors_err : s.clearCursors.err = s.err := rfl
@[simp] theorem State.clearCursors_cfgLevel : s.clearCursors.cfgLevel = s.cfgLevel := rfl
@[simp] theorem State.clearCursors_cfgWbits : s.clearCursors.cfgWbits = s.cfgWbits := rfl
@[simp] theorem State.clearCursors_cfgStrategy : s.clearCursors.cfgStrategy = s.cfgStrategy := rfl
@[simp] theorem State.clearCursors_cfgFraming : s.clearCursors.cfgFraming = s.cfgFraming := rfl
@[simp] theorem State.clearCursors_ilen : s.clearCursors.ilen = s.ilen := rfl
@[simp] theorem State.clearCursors_icons : s.clearCursors.icons = s.icons := rfl
@[simp] theorem State.clearCursors_rpos : s.clearCursors.rpos = 0 := rfl
@[simp] theorem State.clearCursors_wpos : s.clearCursors.wpos = 0 := rfl
@[simp] theorem State.clearCursors_ntok : s.clearCursors.ntok = 0 := rfl
@[simp] theorem State.clearCursors_adler : s.clearCursors.adler = s.adler := rfl
@[simp] theorem State.clearCursors_arg0 : s.clearCursors.arg0 = s.arg0 := rfl
@[simp] theorem State.clearCursors_arg1 : s.clearCursors.arg1 = s.arg1 := rfl
@[simp] theorem State.clearCursors_arg2 : s.clearCursors.arg2 = s.arg2 := rfl
@[simp] theorem State.clearCursors_arg3 : s.clearCursors.arg3 = s.arg3 := rfl
@[simp] theorem State.clearCursors_res0 : s.clearCursors.res0 = s.res0 := rfl
@[simp] theorem State.clearCursors_res1 : s.clearCursors.res1 = s.res1 := rfl
@[simp] theorem State.clearCursors_res2 : s.clearCursors.res2 = s.res2 := rfl
@[simp] theorem State.clearCursors_res3 : s.clearCursors.res3 = s.res3 := rfl
@[simp] theorem State.clearCursors_ibuf : s.clearCursors.ibuf = s.ibuf := rfl
@[simp] theorem State.clearCursors_obuf : s.clearCursors.obuf = .unspecified s.fresh := rfl
@[simp] theorem State.clearCursors_freqLL : s.clearCursors.freqLL = s.freqLL := rfl
@[simp] theorem State.clearCursors_freqD : s.clearCursors.freqD = s.freqD := rfl
@[simp] theorem State.clearCursors_freqCL : s.clearCursors.freqCL = s.freqCL := rfl
@[simp] theorem State.clearCursors_lenLL : s.clearCursors.lenLL = s.lenLL := rfl
@[simp] theorem State.clearCursors_lenD : s.clearCursors.lenD = s.lenD := rfl
@[simp] theorem State.clearCursors_lenCL : s.clearCursors.lenCL = s.lenCL := rfl
@[simp] theorem State.clearCursors_codeLL : s.clearCursors.codeLL = s.codeLL := rfl
@[simp] theorem State.clearCursors_codeD : s.clearCursors.codeD = s.codeD := rfl
@[simp] theorem State.clearCursors_codeCL : s.clearCursors.codeCL = s.codeCL := rfl
@[simp] theorem State.clearCursors_tok : s.clearCursors.tok = s.tok := rfl
@[simp] theorem State.clearCursors_dtblLL : s.clearCursors.dtblLL = s.dtblLL := rfl
@[simp] theorem State.clearCursors_dtblD : s.clearCursors.dtblD = s.dtblD := rfl
@[simp] theorem State.clearCursors_dtblCL : s.clearCursors.dtblCL = s.dtblCL := rfl
@[simp] theorem State.clearCursors_phase : s.clearCursors.phase = s.phase := rfl
@[simp] theorem State.clearCursors_run : s.clearCursors.run = s.run := rfl
@[simp] theorem State.clearCursors_fresh : s.clearCursors.fresh = s.fresh + 1 := rfl
@[simp] theorem State.clearCursors_host : s.clearCursors.host = s.host := rfl
@[simp] theorem State.clearCursors_hostData : s.clearCursors.hostData = s.hostData := rfl

/-! ### `State.dropTables` -/

@[simp] theorem State.dropTables_status : s.dropTables.status = s.status := rfl
@[simp] theorem State.dropTables_err : s.dropTables.err = s.err := rfl
@[simp] theorem State.dropTables_cfgLevel : s.dropTables.cfgLevel = s.cfgLevel := rfl
@[simp] theorem State.dropTables_cfgWbits : s.dropTables.cfgWbits = s.cfgWbits := rfl
@[simp] theorem State.dropTables_cfgStrategy : s.dropTables.cfgStrategy = s.cfgStrategy := rfl
@[simp] theorem State.dropTables_cfgFraming : s.dropTables.cfgFraming = s.cfgFraming := rfl
@[simp] theorem State.dropTables_ilen : s.dropTables.ilen = s.ilen := rfl
@[simp] theorem State.dropTables_icons : s.dropTables.icons = s.icons := rfl
@[simp] theorem State.dropTables_rpos : s.dropTables.rpos = s.rpos := rfl
@[simp] theorem State.dropTables_wpos : s.dropTables.wpos = s.wpos := rfl
@[simp] theorem State.dropTables_ntok : s.dropTables.ntok = s.ntok := rfl
@[simp] theorem State.dropTables_adler : s.dropTables.adler = s.adler := rfl
@[simp] theorem State.dropTables_arg0 : s.dropTables.arg0 = s.arg0 := rfl
@[simp] theorem State.dropTables_arg1 : s.dropTables.arg1 = s.arg1 := rfl
@[simp] theorem State.dropTables_arg2 : s.dropTables.arg2 = s.arg2 := rfl
@[simp] theorem State.dropTables_arg3 : s.dropTables.arg3 = s.arg3 := rfl
@[simp] theorem State.dropTables_res0 : s.dropTables.res0 = s.res0 := rfl
@[simp] theorem State.dropTables_res1 : s.dropTables.res1 = s.res1 := rfl
@[simp] theorem State.dropTables_res2 : s.dropTables.res2 = s.res2 := rfl
@[simp] theorem State.dropTables_res3 : s.dropTables.res3 = s.res3 := rfl
@[simp] theorem State.dropTables_ibuf : s.dropTables.ibuf = s.ibuf := rfl
@[simp] theorem State.dropTables_obuf : s.dropTables.obuf = s.obuf := rfl
@[simp] theorem State.dropTables_freqLL : s.dropTables.freqLL = .unspecified s.fresh := rfl
@[simp] theorem State.dropTables_freqD : s.dropTables.freqD = .unspecified s.fresh := rfl
@[simp] theorem State.dropTables_freqCL : s.dropTables.freqCL = .unspecified s.fresh := rfl
@[simp] theorem State.dropTables_lenLL : s.dropTables.lenLL = .unspecified s.fresh := rfl
@[simp] theorem State.dropTables_lenD : s.dropTables.lenD = .unspecified s.fresh := rfl
@[simp] theorem State.dropTables_lenCL : s.dropTables.lenCL = .unspecified s.fresh := rfl
@[simp] theorem State.dropTables_codeLL : s.dropTables.codeLL = .unspecified s.fresh := rfl
@[simp] theorem State.dropTables_codeD : s.dropTables.codeD = .unspecified s.fresh := rfl
@[simp] theorem State.dropTables_codeCL : s.dropTables.codeCL = .unspecified s.fresh := rfl
@[simp] theorem State.dropTables_tok : s.dropTables.tok = s.tok := rfl
@[simp] theorem State.dropTables_dtblLL : s.dropTables.dtblLL = .unspecified s.fresh := rfl
@[simp] theorem State.dropTables_dtblD : s.dropTables.dtblD = .unspecified s.fresh := rfl
@[simp] theorem State.dropTables_dtblCL : s.dropTables.dtblCL = .unspecified s.fresh := rfl
@[simp] theorem State.dropTables_phase : s.dropTables.phase = s.phase := rfl
@[simp] theorem State.dropTables_run : s.dropTables.run = s.run := rfl
@[simp] theorem State.dropTables_fresh : s.dropTables.fresh = s.fresh + 1 := rfl
@[simp] theorem State.dropTables_host : s.dropTables.host = s.host := rfl
@[simp] theorem State.dropTables_hostData : s.dropTables.hostData = s.hostData := rfl

/-! ### `State.setTokens` -/

@[simp] theorem State.setTokens_status (ts : List Token) : (s.setTokens ts).status = s.status := rfl
@[simp] theorem State.setTokens_err (ts : List Token) : (s.setTokens ts).err = s.err := rfl
@[simp] theorem State.setTokens_cfgLevel (ts : List Token) : (s.setTokens ts).cfgLevel = s.cfgLevel := rfl
@[simp] theorem State.setTokens_cfgWbits (ts : List Token) : (s.setTokens ts).cfgWbits = s.cfgWbits := rfl
@[simp] theorem State.setTokens_cfgStrategy (ts : List Token) : (s.setTokens ts).cfgStrategy = s.cfgStrategy := rfl
@[simp] theorem State.setTokens_cfgFraming (ts : List Token) : (s.setTokens ts).cfgFraming = s.cfgFraming := rfl
@[simp] theorem State.setTokens_ilen (ts : List Token) : (s.setTokens ts).ilen = s.ilen := rfl
@[simp] theorem State.setTokens_icons (ts : List Token) : (s.setTokens ts).icons = s.icons := rfl
@[simp] theorem State.setTokens_rpos (ts : List Token) : (s.setTokens ts).rpos = s.rpos := rfl
@[simp] theorem State.setTokens_wpos (ts : List Token) : (s.setTokens ts).wpos = s.wpos := rfl
@[simp] theorem State.setTokens_ntok (ts : List Token) : (s.setTokens ts).ntok = ts.length := rfl
@[simp] theorem State.setTokens_adler (ts : List Token) : (s.setTokens ts).adler = s.adler := rfl
@[simp] theorem State.setTokens_arg0 (ts : List Token) : (s.setTokens ts).arg0 = s.arg0 := rfl
@[simp] theorem State.setTokens_arg1 (ts : List Token) : (s.setTokens ts).arg1 = s.arg1 := rfl
@[simp] theorem State.setTokens_arg2 (ts : List Token) : (s.setTokens ts).arg2 = s.arg2 := rfl
@[simp] theorem State.setTokens_arg3 (ts : List Token) : (s.setTokens ts).arg3 = s.arg3 := rfl
@[simp] theorem State.setTokens_res0 (ts : List Token) : (s.setTokens ts).res0 = s.res0 := rfl
@[simp] theorem State.setTokens_res1 (ts : List Token) : (s.setTokens ts).res1 = s.res1 := rfl
@[simp] theorem State.setTokens_res2 (ts : List Token) : (s.setTokens ts).res2 = s.res2 := rfl
@[simp] theorem State.setTokens_res3 (ts : List Token) : (s.setTokens ts).res3 = s.res3 := rfl
@[simp] theorem State.setTokens_ibuf (ts : List Token) : (s.setTokens ts).ibuf = s.ibuf := rfl
@[simp] theorem State.setTokens_obuf (ts : List Token) : (s.setTokens ts).obuf = s.obuf := rfl
@[simp] theorem State.setTokens_freqLL (ts : List Token) : (s.setTokens ts).freqLL = s.freqLL := rfl
@[simp] theorem State.setTokens_freqD (ts : List Token) : (s.setTokens ts).freqD = s.freqD := rfl
@[simp] theorem State.setTokens_freqCL (ts : List Token) : (s.setTokens ts).freqCL = s.freqCL := rfl
@[simp] theorem State.setTokens_lenLL (ts : List Token) : (s.setTokens ts).lenLL = s.lenLL := rfl
@[simp] theorem State.setTokens_lenD (ts : List Token) : (s.setTokens ts).lenD = s.lenD := rfl
@[simp] theorem State.setTokens_lenCL (ts : List Token) : (s.setTokens ts).lenCL = s.lenCL := rfl
@[simp] theorem State.setTokens_codeLL (ts : List Token) : (s.setTokens ts).codeLL = s.codeLL := rfl
@[simp] theorem State.setTokens_codeD (ts : List Token) : (s.setTokens ts).codeD = s.codeD := rfl
@[simp] theorem State.setTokens_codeCL (ts : List Token) : (s.setTokens ts).codeCL = s.codeCL := rfl
@[simp] theorem State.setTokens_tok (ts : List Token) : (s.setTokens ts).tok = s.tok.writeRun 0 (ts.map tokenWord) := rfl
@[simp] theorem State.setTokens_dtblLL (ts : List Token) : (s.setTokens ts).dtblLL = s.dtblLL := rfl
@[simp] theorem State.setTokens_dtblD (ts : List Token) : (s.setTokens ts).dtblD = s.dtblD := rfl
@[simp] theorem State.setTokens_dtblCL (ts : List Token) : (s.setTokens ts).dtblCL = s.dtblCL := rfl
@[simp] theorem State.setTokens_phase (ts : List Token) : (s.setTokens ts).phase = s.phase := rfl
@[simp] theorem State.setTokens_run (ts : List Token) : (s.setTokens ts).run = s.run := rfl
@[simp] theorem State.setTokens_fresh (ts : List Token) : (s.setTokens ts).fresh = s.fresh := rfl
@[simp] theorem State.setTokens_host (ts : List Token) : (s.setTokens ts).host = s.host := rfl
@[simp] theorem State.setTokens_hostData (ts : List Token) : (s.setTokens ts).hostData = s.hostData := rfl

/-! ### `State.setFraming` -/

@[simp] theorem State.setFraming_status (v : BitVec 32) : (s.setFraming v).status = s.status := rfl
@[simp] theorem State.setFraming_err (v : BitVec 32) : (s.setFraming v).err = s.err := rfl
@[simp] theorem State.setFraming_cfgLevel (v : BitVec 32) : (s.setFraming v).cfgLevel = s.cfgLevel := rfl
@[simp] theorem State.setFraming_cfgWbits (v : BitVec 32) : (s.setFraming v).cfgWbits = s.cfgWbits := rfl
@[simp] theorem State.setFraming_cfgStrategy (v : BitVec 32) : (s.setFraming v).cfgStrategy = s.cfgStrategy := rfl
@[simp] theorem State.setFraming_cfgFraming (v : BitVec 32) : (s.setFraming v).cfgFraming = v := rfl
@[simp] theorem State.setFraming_ilen (v : BitVec 32) : (s.setFraming v).ilen = s.ilen := rfl
@[simp] theorem State.setFraming_icons (v : BitVec 32) : (s.setFraming v).icons = s.icons := rfl
@[simp] theorem State.setFraming_rpos (v : BitVec 32) : (s.setFraming v).rpos = s.rpos := rfl
@[simp] theorem State.setFraming_wpos (v : BitVec 32) : (s.setFraming v).wpos = s.wpos := rfl
@[simp] theorem State.setFraming_ntok (v : BitVec 32) : (s.setFraming v).ntok = s.ntok := rfl
@[simp] theorem State.setFraming_adler (v : BitVec 32) : (s.setFraming v).adler = s.adler := rfl
@[simp] theorem State.setFraming_arg0 (v : BitVec 32) : (s.setFraming v).arg0 = s.arg0 := rfl
@[simp] theorem State.setFraming_arg1 (v : BitVec 32) : (s.setFraming v).arg1 = s.arg1 := rfl
@[simp] theorem State.setFraming_arg2 (v : BitVec 32) : (s.setFraming v).arg2 = s.arg2 := rfl
@[simp] theorem State.setFraming_arg3 (v : BitVec 32) : (s.setFraming v).arg3 = s.arg3 := rfl
@[simp] theorem State.setFraming_res0 (v : BitVec 32) : (s.setFraming v).res0 = s.res0 := rfl
@[simp] theorem State.setFraming_res1 (v : BitVec 32) : (s.setFraming v).res1 = s.res1 := rfl
@[simp] theorem State.setFraming_res2 (v : BitVec 32) : (s.setFraming v).res2 = s.res2 := rfl
@[simp] theorem State.setFraming_res3 (v : BitVec 32) : (s.setFraming v).res3 = s.res3 := rfl
@[simp] theorem State.setFraming_ibuf (v : BitVec 32) : (s.setFraming v).ibuf = s.ibuf := rfl
@[simp] theorem State.setFraming_obuf (v : BitVec 32) : (s.setFraming v).obuf = s.obuf := rfl
@[simp] theorem State.setFraming_freqLL (v : BitVec 32) : (s.setFraming v).freqLL = s.freqLL := rfl
@[simp] theorem State.setFraming_freqD (v : BitVec 32) : (s.setFraming v).freqD = s.freqD := rfl
@[simp] theorem State.setFraming_freqCL (v : BitVec 32) : (s.setFraming v).freqCL = s.freqCL := rfl
@[simp] theorem State.setFraming_lenLL (v : BitVec 32) : (s.setFraming v).lenLL = s.lenLL := rfl
@[simp] theorem State.setFraming_lenD (v : BitVec 32) : (s.setFraming v).lenD = s.lenD := rfl
@[simp] theorem State.setFraming_lenCL (v : BitVec 32) : (s.setFraming v).lenCL = s.lenCL := rfl
@[simp] theorem State.setFraming_codeLL (v : BitVec 32) : (s.setFraming v).codeLL = s.codeLL := rfl
@[simp] theorem State.setFraming_codeD (v : BitVec 32) : (s.setFraming v).codeD = s.codeD := rfl
@[simp] theorem State.setFraming_codeCL (v : BitVec 32) : (s.setFraming v).codeCL = s.codeCL := rfl
@[simp] theorem State.setFraming_tok (v : BitVec 32) : (s.setFraming v).tok = s.tok := rfl
@[simp] theorem State.setFraming_dtblLL (v : BitVec 32) : (s.setFraming v).dtblLL = s.dtblLL := rfl
@[simp] theorem State.setFraming_dtblD (v : BitVec 32) : (s.setFraming v).dtblD = s.dtblD := rfl
@[simp] theorem State.setFraming_dtblCL (v : BitVec 32) : (s.setFraming v).dtblCL = s.dtblCL := rfl
@[simp] theorem State.setFraming_phase (v : BitVec 32) : (s.setFraming v).phase = s.phase := rfl
@[simp] theorem State.setFraming_run (v : BitVec 32) : (s.setFraming v).run = s.run := rfl
@[simp] theorem State.setFraming_fresh (v : BitVec 32) : (s.setFraming v).fresh = s.fresh := rfl
@[simp] theorem State.setFraming_host (v : BitVec 32) : (s.setFraming v).host = s.host := rfl
@[simp] theorem State.setFraming_hostData (v : BitVec 32) : (s.setFraming v).hostData = s.hostData := rfl

/-! ### `State.startBlock` -/

@[simp] theorem State.startBlock_status : s.startBlock.status = s.status := rfl
@[simp] theorem State.startBlock_err : s.startBlock.err = s.err := rfl
@[simp] theorem State.startBlock_cfgLevel : s.startBlock.cfgLevel = s.cfgLevel := rfl
@[simp] theorem State.startBlock_cfgWbits : s.startBlock.cfgWbits = s.cfgWbits := rfl
@[simp] theorem State.startBlock_cfgStrategy : s.startBlock.cfgStrategy = s.cfgStrategy := rfl
@[simp] theorem State.startBlock_cfgFraming : s.startBlock.cfgFraming = s.cfgFraming := rfl
@[simp] theorem State.startBlock_ilen : s.startBlock.ilen = s.ilen := rfl
@[simp] theorem State.startBlock_icons : s.startBlock.icons = s.icons := rfl
@[simp] theorem State.startBlock_rpos : s.startBlock.rpos = s.rpos := rfl
@[simp] theorem State.startBlock_wpos : s.startBlock.wpos = s.wpos := rfl
@[simp] theorem State.startBlock_ntok : s.startBlock.ntok = s.ntok := rfl
@[simp] theorem State.startBlock_adler : s.startBlock.adler = s.adler := rfl
@[simp] theorem State.startBlock_arg0 : s.startBlock.arg0 = s.arg0 := rfl
@[simp] theorem State.startBlock_arg1 : s.startBlock.arg1 = s.arg1 := rfl
@[simp] theorem State.startBlock_arg2 : s.startBlock.arg2 = s.arg2 := rfl
@[simp] theorem State.startBlock_arg3 : s.startBlock.arg3 = s.arg3 := rfl
@[simp] theorem State.startBlock_res0 : s.startBlock.res0 = s.res0 := rfl
@[simp] theorem State.startBlock_res1 : s.startBlock.res1 = s.res1 := rfl
@[simp] theorem State.startBlock_res2 : s.startBlock.res2 = s.res2 := rfl
@[simp] theorem State.startBlock_res3 : s.startBlock.res3 = s.res3 := rfl
@[simp] theorem State.startBlock_ibuf : s.startBlock.ibuf = s.ibuf := rfl
@[simp] theorem State.startBlock_obuf : s.startBlock.obuf = s.obuf := rfl
@[simp] theorem State.startBlock_freqLL : s.startBlock.freqLL = s.freqLL := rfl
@[simp] theorem State.startBlock_freqD : s.startBlock.freqD = s.freqD := rfl
@[simp] theorem State.startBlock_freqCL : s.startBlock.freqCL = s.freqCL := rfl
@[simp] theorem State.startBlock_lenLL : s.startBlock.lenLL = s.lenLL := rfl
@[simp] theorem State.startBlock_lenD : s.startBlock.lenD = s.lenD := rfl
@[simp] theorem State.startBlock_lenCL : s.startBlock.lenCL = s.lenCL := rfl
@[simp] theorem State.startBlock_codeLL : s.startBlock.codeLL = s.codeLL := rfl
@[simp] theorem State.startBlock_codeD : s.startBlock.codeD = s.codeD := rfl
@[simp] theorem State.startBlock_codeCL : s.startBlock.codeCL = s.codeCL := rfl
@[simp] theorem State.startBlock_tok : s.startBlock.tok = s.tok := rfl
@[simp] theorem State.startBlock_dtblLL : s.startBlock.dtblLL = s.dtblLL := rfl
@[simp] theorem State.startBlock_dtblD : s.startBlock.dtblD = s.dtblD := rfl
@[simp] theorem State.startBlock_dtblCL : s.startBlock.dtblCL = s.dtblCL := rfl
@[simp] theorem State.startBlock_phase : s.startBlock.phase = .blockHdr := rfl
@[simp] theorem State.startBlock_run : s.startBlock.run = ⟨false, false, 0, s.olen⟩ := rfl
@[simp] theorem State.startBlock_fresh : s.startBlock.fresh = s.fresh := rfl
@[simp] theorem State.startBlock_host : s.startBlock.host = s.host := rfl
@[simp] theorem State.startBlock_hostData : s.startBlock.hostData = s.hostData := rfl

/-! ### `State.appendBits`: the fields it leaves alone -/

@[simp] theorem State.appendBits_status (bits : List Bool) : (s.appendBits bits).status = s.status :=
  by unfold State.appendBits; split <;> rfl
@[simp] theorem State.appendBits_err (bits : List Bool) : (s.appendBits bits).err = s.err :=
  by unfold State.appendBits; split <;> rfl
@[simp] theorem State.appendBits_cfgLevel (bits : List Bool) : (s.appendBits bits).cfgLevel = s.cfgLevel :=
  by unfold State.appendBits; split <;> rfl
@[simp] theorem State.appendBits_cfgWbits (bits : List Bool) : (s.appendBits bits).cfgWbits = s.cfgWbits :=
  by unfold State.appendBits; split <;> rfl
@[simp] theorem State.appendBits_cfgStrategy (bits : List Bool) : (s.appendBits bits).cfgStrategy = s.cfgStrategy :=
  by unfold State.appendBits; split <;> rfl
@[simp] theorem State.appendBits_cfgFraming (bits : List Bool) : (s.appendBits bits).cfgFraming = s.cfgFraming :=
  by unfold State.appendBits; split <;> rfl
@[simp] theorem State.appendBits_ilen (bits : List Bool) : (s.appendBits bits).ilen = s.ilen :=
  by unfold State.appendBits; split <;> rfl
@[simp] theorem State.appendBits_icons (bits : List Bool) : (s.appendBits bits).icons = s.icons :=
  by unfold State.appendBits; split <;> rfl
@[simp] theorem State.appendBits_rpos (bits : List Bool) : (s.appendBits bits).rpos = s.rpos :=
  by unfold State.appendBits; split <;> rfl
@[simp] theorem State.appendBits_ntok (bits : List Bool) : (s.appendBits bits).ntok = s.ntok :=
  by unfold State.appendBits; split <;> rfl
@[simp] theorem State.appendBits_adler (bits : List Bool) : (s.appendBits bits).adler = s.adler :=
  by unfold State.appendBits; split <;> rfl
@[simp] theorem State.appendBits_arg0 (bits : List Bool) : (s.appendBits bits).arg0 = s.arg0 :=
  by unfold State.appendBits; split <;> rfl
@[simp] theorem State.appendBits_arg1 (bits : List Bool) : (s.appendBits bits).arg1 = s.arg1 :=
  by unfold State.appendBits; split <;> rfl
@[simp] theorem State.appendBits_arg2 (bits : List Bool) : (s.appendBits bits).arg2 = s.arg2 :=
  by unfold State.appendBits; split <;> rfl
@[simp] theorem State.appendBits_arg3 (bits : List Bool) : (s.appendBits bits).arg3 = s.arg3 :=
  by unfold State.appendBits; split <;> rfl
@[simp] theorem State.appendBits_res0 (bits : List Bool) : (s.appendBits bits).res0 = s.res0 :=
  by unfold State.appendBits; split <;> rfl
@[simp] theorem State.appendBits_res1 (bits : List Bool) : (s.appendBits bits).res1 = s.res1 :=
  by unfold State.appendBits; split <;> rfl
@[simp] theorem State.appendBits_res2 (bits : List Bool) : (s.appendBits bits).res2 = s.res2 :=
  by unfold State.appendBits; split <;> rfl
@[simp] theorem State.appendBits_res3 (bits : List Bool) : (s.appendBits bits).res3 = s.res3 :=
  by unfold State.appendBits; split <;> rfl
@[simp] theorem State.appendBits_ibuf (bits : List Bool) : (s.appendBits bits).ibuf = s.ibuf :=
  by unfold State.appendBits; split <;> rfl
@[simp] theorem State.appendBits_freqLL (bits : List Bool) : (s.appendBits bits).freqLL = s.freqLL :=
  by unfold State.appendBits; split <;> rfl
@[simp] theorem State.appendBits_freqD (bits : List Bool) : (s.appendBits bits).freqD = s.freqD :=
  by unfold State.appendBits; split <;> rfl
@[simp] theorem State.appendBits_freqCL (bits : List Bool) : (s.appendBits bits).freqCL = s.freqCL :=
  by unfold State.appendBits; split <;> rfl
@[simp] theorem State.appendBits_lenLL (bits : List Bool) : (s.appendBits bits).lenLL = s.lenLL :=
  by unfold State.appendBits; split <;> rfl
@[simp] theorem State.appendBits_lenD (bits : List Bool) : (s.appendBits bits).lenD = s.lenD :=
  by unfold State.appendBits; split <;> rfl
@[simp] theorem State.appendBits_lenCL (bits : List Bool) : (s.appendBits bits).lenCL = s.lenCL :=
  by unfold State.appendBits; split <;> rfl
@[simp] theorem State.appendBits_codeLL (bits : List Bool) : (s.appendBits bits).codeLL = s.codeLL :=
  by unfold State.appendBits; split <;> rfl
@[simp] theorem State.appendBits_codeD (bits : List Bool) : (s.appendBits bits).codeD = s.codeD :=
  by unfold State.appendBits; split <;> rfl
@[simp] theorem State.appendBits_codeCL (bits : List Bool) : (s.appendBits bits).codeCL = s.codeCL :=
  by unfold State.appendBits; split <;> rfl
@[simp] theorem State.appendBits_tok (bits : List Bool) : (s.appendBits bits).tok = s.tok :=
  by unfold State.appendBits; split <;> rfl
@[simp] theorem State.appendBits_dtblLL (bits : List Bool) : (s.appendBits bits).dtblLL = s.dtblLL :=
  by unfold State.appendBits; split <;> rfl
@[simp] theorem State.appendBits_dtblD (bits : List Bool) : (s.appendBits bits).dtblD = s.dtblD :=
  by unfold State.appendBits; split <;> rfl
@[simp] theorem State.appendBits_dtblCL (bits : List Bool) : (s.appendBits bits).dtblCL = s.dtblCL :=
  by unfold State.appendBits; split <;> rfl
@[simp] theorem State.appendBits_phase (bits : List Bool) : (s.appendBits bits).phase = s.phase :=
  by unfold State.appendBits; split <;> rfl
@[simp] theorem State.appendBits_run (bits : List Bool) : (s.appendBits bits).run = s.run :=
  by unfold State.appendBits; split <;> rfl
@[simp] theorem State.appendBits_fresh (bits : List Bool) : (s.appendBits bits).fresh = s.fresh :=
  by unfold State.appendBits; split <;> rfl
@[simp] theorem State.appendBits_host (bits : List Bool) : (s.appendBits bits).host = s.host :=
  by unfold State.appendBits; split <;> rfl
@[simp] theorem State.appendBits_hostData (bits : List Bool) : (s.appendBits bits).hostData = s.hostData :=
  by unfold State.appendBits; split <;> rfl

/-! ### `State.outBytes`: the fields it leaves alone -/

@[simp] theorem State.outBytes_status (bs : List Byte) : (s.outBytes bs).status = s.status :=
  by unfold State.outBytes; split <;> rfl
@[simp] theorem State.outBytes_err (bs : List Byte) : (s.outBytes bs).err = s.err :=
  by unfold State.outBytes; split <;> rfl
@[simp] theorem State.outBytes_cfgLevel (bs : List Byte) : (s.outBytes bs).cfgLevel = s.cfgLevel :=
  by unfold State.outBytes; split <;> rfl
@[simp] theorem State.outBytes_cfgWbits (bs : List Byte) : (s.outBytes bs).cfgWbits = s.cfgWbits :=
  by unfold State.outBytes; split <;> rfl
@[simp] theorem State.outBytes_cfgStrategy (bs : List Byte) : (s.outBytes bs).cfgStrategy = s.cfgStrategy :=
  by unfold State.outBytes; split <;> rfl
@[simp] theorem State.outBytes_cfgFraming (bs : List Byte) : (s.outBytes bs).cfgFraming = s.cfgFraming :=
  by unfold State.outBytes; split <;> rfl
@[simp] theorem State.outBytes_ilen (bs : List Byte) : (s.outBytes bs).ilen = s.ilen :=
  by unfold State.outBytes; split <;> rfl
@[simp] theorem State.outBytes_icons (bs : List Byte) : (s.outBytes bs).icons = s.icons :=
  by unfold State.outBytes; split <;> rfl
@[simp] theorem State.outBytes_rpos (bs : List Byte) : (s.outBytes bs).rpos = s.rpos :=
  by unfold State.outBytes; split <;> rfl
@[simp] theorem State.outBytes_ntok (bs : List Byte) : (s.outBytes bs).ntok = s.ntok :=
  by unfold State.outBytes; split <;> rfl
@[simp] theorem State.outBytes_adler (bs : List Byte) : (s.outBytes bs).adler = s.adler :=
  by unfold State.outBytes; split <;> rfl
@[simp] theorem State.outBytes_arg0 (bs : List Byte) : (s.outBytes bs).arg0 = s.arg0 :=
  by unfold State.outBytes; split <;> rfl
@[simp] theorem State.outBytes_arg1 (bs : List Byte) : (s.outBytes bs).arg1 = s.arg1 :=
  by unfold State.outBytes; split <;> rfl
@[simp] theorem State.outBytes_arg2 (bs : List Byte) : (s.outBytes bs).arg2 = s.arg2 :=
  by unfold State.outBytes; split <;> rfl
@[simp] theorem State.outBytes_arg3 (bs : List Byte) : (s.outBytes bs).arg3 = s.arg3 :=
  by unfold State.outBytes; split <;> rfl
@[simp] theorem State.outBytes_res0 (bs : List Byte) : (s.outBytes bs).res0 = s.res0 :=
  by unfold State.outBytes; split <;> rfl
@[simp] theorem State.outBytes_res1 (bs : List Byte) : (s.outBytes bs).res1 = s.res1 :=
  by unfold State.outBytes; split <;> rfl
@[simp] theorem State.outBytes_res2 (bs : List Byte) : (s.outBytes bs).res2 = s.res2 :=
  by unfold State.outBytes; split <;> rfl
@[simp] theorem State.outBytes_res3 (bs : List Byte) : (s.outBytes bs).res3 = s.res3 :=
  by unfold State.outBytes; split <;> rfl
@[simp] theorem State.outBytes_ibuf (bs : List Byte) : (s.outBytes bs).ibuf = s.ibuf :=
  by unfold State.outBytes; split <;> rfl
@[simp] theorem State.outBytes_freqLL (bs : List Byte) : (s.outBytes bs).freqLL = s.freqLL :=
  by unfold State.outBytes; split <;> rfl
@[simp] theorem State.outBytes_freqD (bs : List Byte) : (s.outBytes bs).freqD = s.freqD :=
  by unfold State.outBytes; split <;> rfl
@[simp] theorem State.outBytes_freqCL (bs : List Byte) : (s.outBytes bs).freqCL = s.freqCL :=
  by unfold State.outBytes; split <;> rfl
@[simp] theorem State.outBytes_lenLL (bs : List Byte) : (s.outBytes bs).lenLL = s.lenLL :=
  by unfold State.outBytes; split <;> rfl
@[simp] theorem State.outBytes_lenD (bs : List Byte) : (s.outBytes bs).lenD = s.lenD :=
  by unfold State.outBytes; split <;> rfl
@[simp] theorem State.outBytes_lenCL (bs : List Byte) : (s.outBytes bs).lenCL = s.lenCL :=
  by unfold State.outBytes; split <;> rfl
@[simp] theorem State.outBytes_codeLL (bs : List Byte) : (s.outBytes bs).codeLL = s.codeLL :=
  by unfold State.outBytes; split <;> rfl
@[simp] theorem State.outBytes_codeD (bs : List Byte) : (s.outBytes bs).codeD = s.codeD :=
  by unfold State.outBytes; split <;> rfl
@[simp] theorem State.outBytes_codeCL (bs : List Byte) : (s.outBytes bs).codeCL = s.codeCL :=
  by unfold State.outBytes; split <;> rfl
@[simp] theorem State.outBytes_tok (bs : List Byte) : (s.outBytes bs).tok = s.tok :=
  by unfold State.outBytes; split <;> rfl
@[simp] theorem State.outBytes_dtblLL (bs : List Byte) : (s.outBytes bs).dtblLL = s.dtblLL :=
  by unfold State.outBytes; split <;> rfl
@[simp] theorem State.outBytes_dtblD (bs : List Byte) : (s.outBytes bs).dtblD = s.dtblD :=
  by unfold State.outBytes; split <;> rfl
@[simp] theorem State.outBytes_dtblCL (bs : List Byte) : (s.outBytes bs).dtblCL = s.dtblCL :=
  by unfold State.outBytes; split <;> rfl
@[simp] theorem State.outBytes_phase (bs : List Byte) : (s.outBytes bs).phase = s.phase :=
  by unfold State.outBytes; split <;> rfl
@[simp] theorem State.outBytes_run (bs : List Byte) : (s.outBytes bs).run = s.run :=
  by unfold State.outBytes; split <;> rfl
@[simp] theorem State.outBytes_fresh (bs : List Byte) : (s.outBytes bs).fresh = s.fresh :=
  by unfold State.outBytes; split <;> rfl
@[simp] theorem State.outBytes_host (bs : List Byte) : (s.outBytes bs).host = s.host :=
  by unfold State.outBytes; split <;> rfl
@[simp] theorem State.outBytes_hostData (bs : List Byte) : (s.outBytes bs).hostData = s.hostData :=
  by unfold State.outBytes; split <;> rfl

/-! ### `State.setLens`: the fields it leaves alone -/

@[simp] theorem State.setLens_status (a : Alphabet) (l : List Nat) : (s.setLens a l).status = s.status :=
  by cases a <;> rfl
@[simp] theorem State.setLens_err (a : Alphabet) (l : List Nat) : (s.setLens a l).err = s.err :=
  by cases a <;> rfl
@[simp] theorem State.setLens_cfgLevel (a : Alphabet) (l : List Nat) : (s.setLens a l).cfgLevel = s.cfgLevel :=
  by cases a <;> rfl
@[simp] theorem State.setLens_cfgWbits (a : Alphabet) (l : List Nat) : (s.setLens a l).cfgWbits = s.cfgWbits :=
  by cases a <;> rfl
@[simp] theorem State.setLens_cfgStrategy (a : Alphabet) (l : List Nat) : (s.setLens a l).cfgStrategy = s.cfgStrategy :=
  by cases a <;> rfl
@[simp] theorem State.setLens_cfgFraming (a : Alphabet) (l : List Nat) : (s.setLens a l).cfgFraming = s.cfgFraming :=
  by cases a <;> rfl
@[simp] theorem State.setLens_ilen (a : Alphabet) (l : List Nat) : (s.setLens a l).ilen = s.ilen :=
  by cases a <;> rfl
@[simp] theorem State.setLens_icons (a : Alphabet) (l : List Nat) : (s.setLens a l).icons = s.icons :=
  by cases a <;> rfl
@[simp] theorem State.setLens_rpos (a : Alphabet) (l : List Nat) : (s.setLens a l).rpos = s.rpos :=
  by cases a <;> rfl
@[simp] theorem State.setLens_wpos (a : Alphabet) (l : List Nat) : (s.setLens a l).wpos = s.wpos :=
  by cases a <;> rfl
@[simp] theorem State.setLens_ntok (a : Alphabet) (l : List Nat) : (s.setLens a l).ntok = s.ntok :=
  by cases a <;> rfl
@[simp] theorem State.setLens_adler (a : Alphabet) (l : List Nat) : (s.setLens a l).adler = s.adler :=
  by cases a <;> rfl
@[simp] theorem State.setLens_arg0 (a : Alphabet) (l : List Nat) : (s.setLens a l).arg0 = s.arg0 :=
  by cases a <;> rfl
@[simp] theorem State.setLens_arg1 (a : Alphabet) (l : List Nat) : (s.setLens a l).arg1 = s.arg1 :=
  by cases a <;> rfl
@[simp] theorem State.setLens_arg2 (a : Alphabet) (l : List Nat) : (s.setLens a l).arg2 = s.arg2 :=
  by cases a <;> rfl
@[simp] theorem State.setLens_arg3 (a : Alphabet) (l : List Nat) : (s.setLens a l).arg3 = s.arg3 :=
  by cases a <;> rfl
@[simp] theorem State.setLens_res0 (a : Alphabet) (l : List Nat) : (s.setLens a l).res0 = s.res0 :=
  by cases a <;> rfl
@[simp] theorem State.setLens_res1 (a : Alphabet) (l : List Nat) : (s.setLens a l).res1 = s.res1 :=
  by cases a <;> rfl
@[simp] theorem State.setLens_res2 (a : Alphabet) (l : List Nat) : (s.setLens a l).res2 = s.res2 :=
  by cases a <;> rfl
@[simp] theorem State.setLens_res3 (a : Alphabet) (l : List Nat) : (s.setLens a l).res3 = s.res3 :=
  by cases a <;> rfl
@[simp] theorem State.setLens_ibuf (a : Alphabet) (l : List Nat) : (s.setLens a l).ibuf = s.ibuf :=
  by cases a <;> rfl
@[simp] theorem State.setLens_obuf (a : Alphabet) (l : List Nat) : (s.setLens a l).obuf = s.obuf :=
  by cases a <;> rfl
@[simp] theorem State.setLens_freqLL (a : Alphabet) (l : List Nat) : (s.setLens a l).freqLL = s.freqLL :=
  by cases a <;> rfl
@[simp] theorem State.setLens_freqD (a : Alphabet) (l : List Nat) : (s.setLens a l).freqD = s.freqD :=
  by cases a <;> rfl
@[simp] theorem State.setLens_freqCL (a : Alphabet) (l : List Nat) : (s.setLens a l).freqCL = s.freqCL :=
  by cases a <;> rfl
@[simp] theorem State.setLens_codeLL (a : Alphabet) (l : List Nat) : (s.setLens a l).codeLL = s.codeLL :=
  by cases a <;> rfl
@[simp] theorem State.setLens_codeD (a : Alphabet) (l : List Nat) : (s.setLens a l).codeD = s.codeD :=
  by cases a <;> rfl
@[simp] theorem State.setLens_codeCL (a : Alphabet) (l : List Nat) : (s.setLens a l).codeCL = s.codeCL :=
  by cases a <;> rfl
@[simp] theorem State.setLens_tok (a : Alphabet) (l : List Nat) : (s.setLens a l).tok = s.tok :=
  by cases a <;> rfl
@[simp] theorem State.setLens_dtblLL (a : Alphabet) (l : List Nat) : (s.setLens a l).dtblLL = s.dtblLL :=
  by cases a <;> rfl
@[simp] theorem State.setLens_dtblD (a : Alphabet) (l : List Nat) : (s.setLens a l).dtblD = s.dtblD :=
  by cases a <;> rfl
@[simp] theorem State.setLens_dtblCL (a : Alphabet) (l : List Nat) : (s.setLens a l).dtblCL = s.dtblCL :=
  by cases a <;> rfl
@[simp] theorem State.setLens_phase (a : Alphabet) (l : List Nat) : (s.setLens a l).phase = s.phase :=
  by cases a <;> rfl
@[simp] theorem State.setLens_run (a : Alphabet) (l : List Nat) : (s.setLens a l).run = s.run :=
  by cases a <;> rfl
@[simp] theorem State.setLens_fresh (a : Alphabet) (l : List Nat) : (s.setLens a l).fresh = s.fresh :=
  by cases a <;> rfl
@[simp] theorem State.setLens_host (a : Alphabet) (l : List Nat) : (s.setLens a l).host = s.host :=
  by cases a <;> rfl
@[simp] theorem State.setLens_hostData (a : Alphabet) (l : List Nat) : (s.setLens a l).hostData = s.hostData :=
  by cases a <;> rfl

/-! ### `State.setCodes`: the fields it leaves alone -/

@[simp] theorem State.setCodes_status (a : Alphabet) (l : List Nat) : (s.setCodes a l).status = s.status :=
  by cases a <;> rfl
@[simp] theorem State.setCodes_err (a : Alphabet) (l : List Nat) : (s.setCodes a l).err = s.err :=
  by cases a <;> rfl
@[simp] theorem State.setCodes_cfgLevel (a : Alphabet) (l : List Nat) : (s.setCodes a l).cfgLevel = s.cfgLevel :=
  by cases a <;> rfl
@[simp] theorem State.setCodes_cfgWbits (a : Alphabet) (l : List Nat) : (s.setCodes a l).cfgWbits = s.cfgWbits :=
  by cases a <;> rfl
@[simp] theorem State.setCodes_cfgStrategy (a : Alphabet) (l : List Nat) : (s.setCodes a l).cfgStrategy = s.cfgStrategy :=
  by cases a <;> rfl
@[simp] theorem State.setCodes_cfgFraming (a : Alphabet) (l : List Nat) : (s.setCodes a l).cfgFraming = s.cfgFraming :=
  by cases a <;> rfl
@[simp] theorem State.setCodes_ilen (a : Alphabet) (l : List Nat) : (s.setCodes a l).ilen = s.ilen :=
  by cases a <;> rfl
@[simp] theorem State.setCodes_icons (a : Alphabet) (l : List Nat) : (s.setCodes a l).icons = s.icons :=
  by cases a <;> rfl
@[simp] theorem State.setCodes_rpos (a : Alphabet) (l : List Nat) : (s.setCodes a l).rpos = s.rpos :=
  by cases a <;> rfl
@[simp] theorem State.setCodes_wpos (a : Alphabet) (l : List Nat) : (s.setCodes a l).wpos = s.wpos :=
  by cases a <;> rfl
@[simp] theorem State.setCodes_ntok (a : Alphabet) (l : List Nat) : (s.setCodes a l).ntok = s.ntok :=
  by cases a <;> rfl
@[simp] theorem State.setCodes_adler (a : Alphabet) (l : List Nat) : (s.setCodes a l).adler = s.adler :=
  by cases a <;> rfl
@[simp] theorem State.setCodes_arg0 (a : Alphabet) (l : List Nat) : (s.setCodes a l).arg0 = s.arg0 :=
  by cases a <;> rfl
@[simp] theorem State.setCodes_arg1 (a : Alphabet) (l : List Nat) : (s.setCodes a l).arg1 = s.arg1 :=
  by cases a <;> rfl
@[simp] theorem State.setCodes_arg2 (a : Alphabet) (l : List Nat) : (s.setCodes a l).arg2 = s.arg2 :=
  by cases a <;> rfl
@[simp] theorem State.setCodes_arg3 (a : Alphabet) (l : List Nat) : (s.setCodes a l).arg3 = s.arg3 :=
  by cases a <;> rfl
@[simp] theorem State.setCodes_res0 (a : Alphabet) (l : List Nat) : (s.setCodes a l).res0 = s.res0 :=
  by cases a <;> rfl
@[simp] theorem State.setCodes_res1 (a : Alphabet) (l : List Nat) : (s.setCodes a l).res1 = s.res1 :=
  by cases a <;> rfl
@[simp] theorem State.setCodes_res2 (a : Alphabet) (l : List Nat) : (s.setCodes a l).res2 = s.res2 :=
  by cases a <;> rfl
@[simp] theorem State.setCodes_res3 (a : Alphabet) (l : List Nat) : (s.setCodes a l).res3 = s.res3 :=
  by cases a <;> rfl
@[simp] theorem State.setCodes_ibuf (a : Alphabet) (l : List Nat) : (s.setCodes a l).ibuf = s.ibuf :=
  by cases a <;> rfl
@[simp] theorem State.setCodes_obuf (a : Alphabet) (l : List Nat) : (s.setCodes a l).obuf = s.obuf :=
  by cases a <;> rfl
@[simp] theorem State.setCodes_freqLL (a : Alphabet) (l : List Nat) : (s.setCodes a l).freqLL = s.freqLL :=
  by cases a <;> rfl
@[simp] theorem State.setCodes_freqD (a : Alphabet) (l : List Nat) : (s.setCodes a l).freqD = s.freqD :=
  by cases a <;> rfl
@[simp] theorem State.setCodes_freqCL (a : Alphabet) (l : List Nat) : (s.setCodes a l).freqCL = s.freqCL :=
  by cases a <;> rfl
@[simp] theorem State.setCodes_lenLL (a : Alphabet) (l : List Nat) : (s.setCodes a l).lenLL = s.lenLL :=
  by cases a <;> rfl
@[simp] theorem State.setCodes_lenD (a : Alphabet) (l : List Nat) : (s.setCodes a l).lenD = s.lenD :=
  by cases a <;> rfl
@[simp] theorem State.setCodes_lenCL (a : Alphabet) (l : List Nat) : (s.setCodes a l).lenCL = s.lenCL :=
  by cases a <;> rfl
@[simp] theorem State.setCodes_tok (a : Alphabet) (l : List Nat) : (s.setCodes a l).tok = s.tok :=
  by cases a <;> rfl
@[simp] theorem State.setCodes_dtblLL (a : Alphabet) (l : List Nat) : (s.setCodes a l).dtblLL = s.dtblLL :=
  by cases a <;> rfl
@[simp] theorem State.setCodes_dtblD (a : Alphabet) (l : List Nat) : (s.setCodes a l).dtblD = s.dtblD :=
  by cases a <;> rfl
@[simp] theorem State.setCodes_dtblCL (a : Alphabet) (l : List Nat) : (s.setCodes a l).dtblCL = s.dtblCL :=
  by cases a <;> rfl
@[simp] theorem State.setCodes_phase (a : Alphabet) (l : List Nat) : (s.setCodes a l).phase = s.phase :=
  by cases a <;> rfl
@[simp] theorem State.setCodes_run (a : Alphabet) (l : List Nat) : (s.setCodes a l).run = s.run :=
  by cases a <;> rfl
@[simp] theorem State.setCodes_fresh (a : Alphabet) (l : List Nat) : (s.setCodes a l).fresh = s.fresh :=
  by cases a <;> rfl
@[simp] theorem State.setCodes_host (a : Alphabet) (l : List Nat) : (s.setCodes a l).host = s.host :=
  by cases a <;> rfl
@[simp] theorem State.setCodes_hostData (a : Alphabet) (l : List Nat) : (s.setCodes a l).hostData = s.hostData :=
  by cases a <;> rfl

/-! ### `State.setDtbl`: the fields it leaves alone -/

@[simp] theorem State.setDtbl_status (a : Alphabet) (t : DecTable) : (s.setDtbl a t).status = s.status :=
  by cases a <;> rfl
@[simp] theorem State.setDtbl_err (a : Alphabet) (t : DecTable) : (s.setDtbl a t).err = s.err :=
  by cases a <;> rfl
@[simp] theorem State.setDtbl_cfgLevel (a : Alphabet) (t : DecTable) : (s.setDtbl a t).cfgLevel = s.cfgLevel :=
  by cases a <;> rfl
@[simp] theorem State.setDtbl_cfgWbits (a : Alphabet) (t : DecTable) : (s.setDtbl a t).cfgWbits = s.cfgWbits :=
  by cases a <;> rfl
@[simp] theorem State.setDtbl_cfgStrategy (a : Alphabet) (t : DecTable) : (s.setDtbl a t).cfgStrategy = s.cfgStrategy :=
  by cases a <;> rfl
@[simp] theorem State.setDtbl_cfgFraming (a : Alphabet) (t : DecTable) : (s.setDtbl a t).cfgFraming = s.cfgFraming :=
  by cases a <;> rfl
@[simp] theorem State.setDtbl_ilen (a : Alphabet) (t : DecTable) : (s.setDtbl a t).ilen = s.ilen :=
  by cases a <;> rfl
@[simp] theorem State.setDtbl_icons (a : Alphabet) (t : DecTable) : (s.setDtbl a t).icons = s.icons :=
  by cases a <;> rfl
@[simp] theorem State.setDtbl_rpos (a : Alphabet) (t : DecTable) : (s.setDtbl a t).rpos = s.rpos :=
  by cases a <;> rfl
@[simp] theorem State.setDtbl_wpos (a : Alphabet) (t : DecTable) : (s.setDtbl a t).wpos = s.wpos :=
  by cases a <;> rfl
@[simp] theorem State.setDtbl_ntok (a : Alphabet) (t : DecTable) : (s.setDtbl a t).ntok = s.ntok :=
  by cases a <;> rfl
@[simp] theorem State.setDtbl_adler (a : Alphabet) (t : DecTable) : (s.setDtbl a t).adler = s.adler :=
  by cases a <;> rfl
@[simp] theorem State.setDtbl_arg0 (a : Alphabet) (t : DecTable) : (s.setDtbl a t).arg0 = s.arg0 :=
  by cases a <;> rfl
@[simp] theorem State.setDtbl_arg1 (a : Alphabet) (t : DecTable) : (s.setDtbl a t).arg1 = s.arg1 :=
  by cases a <;> rfl
@[simp] theorem State.setDtbl_arg2 (a : Alphabet) (t : DecTable) : (s.setDtbl a t).arg2 = s.arg2 :=
  by cases a <;> rfl
@[simp] theorem State.setDtbl_arg3 (a : Alphabet) (t : DecTable) : (s.setDtbl a t).arg3 = s.arg3 :=
  by cases a <;> rfl
@[simp] theorem State.setDtbl_res0 (a : Alphabet) (t : DecTable) : (s.setDtbl a t).res0 = s.res0 :=
  by cases a <;> rfl
@[simp] theorem State.setDtbl_res1 (a : Alphabet) (t : DecTable) : (s.setDtbl a t).res1 = s.res1 :=
  by cases a <;> rfl
@[simp] theorem State.setDtbl_res2 (a : Alphabet) (t : DecTable) : (s.setDtbl a t).res2 = s.res2 :=
  by cases a <;> rfl
@[simp] theorem State.setDtbl_res3 (a : Alphabet) (t : DecTable) : (s.setDtbl a t).res3 = s.res3 :=
  by cases a <;> rfl
@[simp] theorem State.setDtbl_ibuf (a : Alphabet) (t : DecTable) : (s.setDtbl a t).ibuf = s.ibuf :=
  by cases a <;> rfl
@[simp] theorem State.setDtbl_obuf (a : Alphabet) (t : DecTable) : (s.setDtbl a t).obuf = s.obuf :=
  by cases a <;> rfl
@[simp] theorem State.setDtbl_freqLL (a : Alphabet) (t : DecTable) : (s.setDtbl a t).freqLL = s.freqLL :=
  by cases a <;> rfl
@[simp] theorem State.setDtbl_freqD (a : Alphabet) (t : DecTable) : (s.setDtbl a t).freqD = s.freqD :=
  by cases a <;> rfl
@[simp] theorem State.setDtbl_freqCL (a : Alphabet) (t : DecTable) : (s.setDtbl a t).freqCL = s.freqCL :=
  by cases a <;> rfl
@[simp] theorem State.setDtbl_lenLL (a : Alphabet) (t : DecTable) : (s.setDtbl a t).lenLL = s.lenLL :=
  by cases a <;> rfl
@[simp] theorem State.setDtbl_lenD (a : Alphabet) (t : DecTable) : (s.setDtbl a t).lenD = s.lenD :=
  by cases a <;> rfl
@[simp] theorem State.setDtbl_lenCL (a : Alphabet) (t : DecTable) : (s.setDtbl a t).lenCL = s.lenCL :=
  by cases a <;> rfl
@[simp] theorem State.setDtbl_codeLL (a : Alphabet) (t : DecTable) : (s.setDtbl a t).codeLL = s.codeLL :=
  by cases a <;> rfl
@[simp] theorem State.setDtbl_codeD (a : Alphabet) (t : DecTable) : (s.setDtbl a t).codeD = s.codeD :=
  by cases a <;> rfl
@[simp] theorem State.setDtbl_codeCL (a : Alphabet) (t : DecTable) : (s.setDtbl a t).codeCL = s.codeCL :=
  by cases a <;> rfl
@[simp] theorem State.setDtbl_tok (a : Alphabet) (t : DecTable) : (s.setDtbl a t).tok = s.tok :=
  by cases a <;> rfl
@[simp] theorem State.setDtbl_phase (a : Alphabet) (t : DecTable) : (s.setDtbl a t).phase = s.phase :=
  by cases a <;> rfl
@[simp] theorem State.setDtbl_run (a : Alphabet) (t : DecTable) : (s.setDtbl a t).run = s.run :=
  by cases a <;> rfl
@[simp] theorem State.setDtbl_fresh (a : Alphabet) (t : DecTable) : (s.setDtbl a t).fresh = s.fresh :=
  by cases a <;> rfl
@[simp] theorem State.setDtbl_host (a : Alphabet) (t : DecTable) : (s.setDtbl a t).host = s.host :=
  by cases a <;> rfl
@[simp] theorem State.setDtbl_hostData (a : Alphabet) (t : DecTable) : (s.setDtbl a t).hostData = s.hostData :=
  by cases a <;> rfl

/-! ### `State.dropAfterError`: the fields it leaves alone -/

@[simp] theorem State.dropAfterError_status (k : ErrorKeep) : (s.dropAfterError k).status = s.status := rfl
@[simp] theorem State.dropAfterError_err (k : ErrorKeep) : (s.dropAfterError k).err = s.err := rfl
@[simp] theorem State.dropAfterError_cfgLevel (k : ErrorKeep) : (s.dropAfterError k).cfgLevel = s.cfgLevel := rfl
@[simp] theorem State.dropAfterError_cfgWbits (k : ErrorKeep) : (s.dropAfterError k).cfgWbits = s.cfgWbits := rfl
@[simp] theorem State.dropAfterError_cfgStrategy (k : ErrorKeep) : (s.dropAfterError k).cfgStrategy = s.cfgStrategy := rfl
@[simp] theorem State.dropAfterError_cfgFraming (k : ErrorKeep) : (s.dropAfterError k).cfgFraming = s.cfgFraming := rfl
@[simp] theorem State.dropAfterError_ilen (k : ErrorKeep) : (s.dropAfterError k).ilen = s.ilen := rfl
@[simp] theorem State.dropAfterError_ntok (k : ErrorKeep) : (s.dropAfterError k).ntok = s.ntok := rfl
@[simp] theorem State.dropAfterError_arg0 (k : ErrorKeep) : (s.dropAfterError k).arg0 = s.arg0 := rfl
@[simp] theorem State.dropAfterError_arg1 (k : ErrorKeep) : (s.dropAfterError k).arg1 = s.arg1 := rfl
@[simp] theorem State.dropAfterError_arg2 (k : ErrorKeep) : (s.dropAfterError k).arg2 = s.arg2 := rfl
@[simp] theorem State.dropAfterError_arg3 (k : ErrorKeep) : (s.dropAfterError k).arg3 = s.arg3 := rfl
@[simp] theorem State.dropAfterError_res0 (k : ErrorKeep) : (s.dropAfterError k).res0 = s.res0 := rfl
@[simp] theorem State.dropAfterError_res1 (k : ErrorKeep) : (s.dropAfterError k).res1 = s.res1 := rfl
@[simp] theorem State.dropAfterError_res2 (k : ErrorKeep) : (s.dropAfterError k).res2 = s.res2 := rfl
@[simp] theorem State.dropAfterError_res3 (k : ErrorKeep) : (s.dropAfterError k).res3 = s.res3 := rfl
@[simp] theorem State.dropAfterError_ibuf (k : ErrorKeep) : (s.dropAfterError k).ibuf = s.ibuf := rfl
@[simp] theorem State.dropAfterError_freqLL (k : ErrorKeep) : (s.dropAfterError k).freqLL = s.freqLL := rfl
@[simp] theorem State.dropAfterError_freqD (k : ErrorKeep) : (s.dropAfterError k).freqD = s.freqD := rfl
@[simp] theorem State.dropAfterError_freqCL (k : ErrorKeep) : (s.dropAfterError k).freqCL = s.freqCL := rfl
@[simp] theorem State.dropAfterError_codeLL (k : ErrorKeep) : (s.dropAfterError k).codeLL = s.codeLL := rfl
@[simp] theorem State.dropAfterError_codeD (k : ErrorKeep) : (s.dropAfterError k).codeD = s.codeD := rfl
@[simp] theorem State.dropAfterError_codeCL (k : ErrorKeep) : (s.dropAfterError k).codeCL = s.codeCL := rfl
@[simp] theorem State.dropAfterError_tok (k : ErrorKeep) : (s.dropAfterError k).tok = s.tok := rfl
@[simp] theorem State.dropAfterError_phase (k : ErrorKeep) : (s.dropAfterError k).phase = s.phase := rfl
@[simp] theorem State.dropAfterError_run (k : ErrorKeep) : (s.dropAfterError k).run = s.run := rfl
@[simp] theorem State.dropAfterError_host (k : ErrorKeep) : (s.dropAfterError k).host = s.host := rfl
@[simp] theorem State.dropAfterError_hostData (k : ErrorKeep) : (s.dropAfterError k).hostData = s.hostData := rfl

/-! ### `State.raise`: the fields it leaves alone -/

@[simp] theorem State.raise_cfgLevel (k : ErrorKeep) (e : HwError) : (s.raise k e).cfgLevel = s.cfgLevel :=
  by unfold State.raise; split <;> rfl
@[simp] theorem State.raise_cfgWbits (k : ErrorKeep) (e : HwError) : (s.raise k e).cfgWbits = s.cfgWbits :=
  by unfold State.raise; split <;> rfl
@[simp] theorem State.raise_cfgStrategy (k : ErrorKeep) (e : HwError) : (s.raise k e).cfgStrategy = s.cfgStrategy :=
  by unfold State.raise; split <;> rfl
@[simp] theorem State.raise_cfgFraming (k : ErrorKeep) (e : HwError) : (s.raise k e).cfgFraming = s.cfgFraming :=
  by unfold State.raise; split <;> rfl
@[simp] theorem State.raise_ilen (k : ErrorKeep) (e : HwError) : (s.raise k e).ilen = s.ilen :=
  by unfold State.raise; split <;> rfl
@[simp] theorem State.raise_ntok (k : ErrorKeep) (e : HwError) : (s.raise k e).ntok = s.ntok :=
  by unfold State.raise; split <;> rfl
@[simp] theorem State.raise_arg0 (k : ErrorKeep) (e : HwError) : (s.raise k e).arg0 = s.arg0 :=
  by unfold State.raise; split <;> rfl
@[simp] theorem State.raise_arg1 (k : ErrorKeep) (e : HwError) : (s.raise k e).arg1 = s.arg1 :=
  by unfold State.raise; split <;> rfl
@[simp] theorem State.raise_arg2 (k : ErrorKeep) (e : HwError) : (s.raise k e).arg2 = s.arg2 :=
  by unfold State.raise; split <;> rfl
@[simp] theorem State.raise_arg3 (k : ErrorKeep) (e : HwError) : (s.raise k e).arg3 = s.arg3 :=
  by unfold State.raise; split <;> rfl
@[simp] theorem State.raise_res0 (k : ErrorKeep) (e : HwError) : (s.raise k e).res0 = s.res0 :=
  by unfold State.raise; split <;> rfl
@[simp] theorem State.raise_res1 (k : ErrorKeep) (e : HwError) : (s.raise k e).res1 = s.res1 :=
  by unfold State.raise; split <;> rfl
@[simp] theorem State.raise_res2 (k : ErrorKeep) (e : HwError) : (s.raise k e).res2 = s.res2 :=
  by unfold State.raise; split <;> rfl
@[simp] theorem State.raise_res3 (k : ErrorKeep) (e : HwError) : (s.raise k e).res3 = s.res3 :=
  by unfold State.raise; split <;> rfl
@[simp] theorem State.raise_ibuf (k : ErrorKeep) (e : HwError) : (s.raise k e).ibuf = s.ibuf :=
  by unfold State.raise; split <;> rfl
@[simp] theorem State.raise_freqLL (k : ErrorKeep) (e : HwError) : (s.raise k e).freqLL = s.freqLL :=
  by unfold State.raise; split <;> rfl
@[simp] theorem State.raise_freqD (k : ErrorKeep) (e : HwError) : (s.raise k e).freqD = s.freqD :=
  by unfold State.raise; split <;> rfl
@[simp] theorem State.raise_freqCL (k : ErrorKeep) (e : HwError) : (s.raise k e).freqCL = s.freqCL :=
  by unfold State.raise; split <;> rfl
@[simp] theorem State.raise_codeLL (k : ErrorKeep) (e : HwError) : (s.raise k e).codeLL = s.codeLL :=
  by unfold State.raise; split <;> rfl
@[simp] theorem State.raise_codeD (k : ErrorKeep) (e : HwError) : (s.raise k e).codeD = s.codeD :=
  by unfold State.raise; split <;> rfl
@[simp] theorem State.raise_codeCL (k : ErrorKeep) (e : HwError) : (s.raise k e).codeCL = s.codeCL :=
  by unfold State.raise; split <;> rfl
@[simp] theorem State.raise_tok (k : ErrorKeep) (e : HwError) : (s.raise k e).tok = s.tok :=
  by unfold State.raise; split <;> rfl
@[simp] theorem State.raise_phase (k : ErrorKeep) (e : HwError) : (s.raise k e).phase = s.phase :=
  by unfold State.raise; split <;> rfl
@[simp] theorem State.raise_run (k : ErrorKeep) (e : HwError) : (s.raise k e).run = s.run :=
  by unfold State.raise; split <;> rfl
@[simp] theorem State.raise_host (k : ErrorKeep) (e : HwError) : (s.raise k e).host = s.host :=
  by unfold State.raise; split <;> rfl
@[simp] theorem State.raise_hostData (k : ErrorKeep) (e : HwError) : (s.raise k e).hostData = s.hostData :=
  by unfold State.raise; split <;> rfl

/-! ### `State.raiseDecode`: the fields it leaves alone -/

@[simp] theorem State.raiseDecode_cfgLevel (e : HwError) : (s.raiseDecode e).cfgLevel = s.cfgLevel :=
  by unfold State.raiseDecode State.raise; split <;> rfl
@[simp] theorem State.raiseDecode_cfgWbits (e : HwError) : (s.raiseDecode e).cfgWbits = s.cfgWbits :=
  by unfold State.raiseDecode State.raise; split <;> rfl
@[simp] theorem State.raiseDecode_cfgStrategy (e : HwError) : (s.raiseDecode e).cfgStrategy = s.cfgStrategy :=
  by unfold State.raiseDecode State.raise; split <;> rfl
@[simp] theorem State.raiseDecode_cfgFraming (e : HwError) : (s.raiseDecode e).cfgFraming = s.cfgFraming :=
  by unfold State.raiseDecode State.raise; split <;> rfl
@[simp] theorem State.raiseDecode_ilen (e : HwError) : (s.raiseDecode e).ilen = s.ilen :=
  by unfold State.raiseDecode State.raise; split <;> rfl
@[simp] theorem State.raiseDecode_ntok (e : HwError) : (s.raiseDecode e).ntok = s.ntok :=
  by unfold State.raiseDecode State.raise; split <;> rfl
@[simp] theorem State.raiseDecode_arg0 (e : HwError) : (s.raiseDecode e).arg0 = s.arg0 :=
  by unfold State.raiseDecode State.raise; split <;> rfl
@[simp] theorem State.raiseDecode_arg1 (e : HwError) : (s.raiseDecode e).arg1 = s.arg1 :=
  by unfold State.raiseDecode State.raise; split <;> rfl
@[simp] theorem State.raiseDecode_arg2 (e : HwError) : (s.raiseDecode e).arg2 = s.arg2 :=
  by unfold State.raiseDecode State.raise; split <;> rfl
@[simp] theorem State.raiseDecode_arg3 (e : HwError) : (s.raiseDecode e).arg3 = s.arg3 :=
  by unfold State.raiseDecode State.raise; split <;> rfl
@[simp] theorem State.raiseDecode_res0 (e : HwError) : (s.raiseDecode e).res0 = s.res0 :=
  by unfold State.raiseDecode State.raise; split <;> rfl
@[simp] theorem State.raiseDecode_res1 (e : HwError) : (s.raiseDecode e).res1 = s.res1 :=
  by unfold State.raiseDecode State.raise; split <;> rfl
@[simp] theorem State.raiseDecode_res2 (e : HwError) : (s.raiseDecode e).res2 = s.res2 :=
  by unfold State.raiseDecode State.raise; split <;> rfl
@[simp] theorem State.raiseDecode_res3 (e : HwError) : (s.raiseDecode e).res3 = s.res3 :=
  by unfold State.raiseDecode State.raise; split <;> rfl
@[simp] theorem State.raiseDecode_ibuf (e : HwError) : (s.raiseDecode e).ibuf = s.ibuf :=
  by unfold State.raiseDecode State.raise; split <;> rfl
@[simp] theorem State.raiseDecode_freqLL (e : HwError) : (s.raiseDecode e).freqLL = s.freqLL :=
  by unfold State.raiseDecode State.raise; split <;> rfl
@[simp] theorem State.raiseDecode_freqD (e : HwError) : (s.raiseDecode e).freqD = s.freqD :=
  by unfold State.raiseDecode State.raise; split <;> rfl
@[simp] theorem State.raiseDecode_freqCL (e : HwError) : (s.raiseDecode e).freqCL = s.freqCL :=
  by unfold State.raiseDecode State.raise; split <;> rfl
@[simp] theorem State.raiseDecode_codeLL (e : HwError) : (s.raiseDecode e).codeLL = s.codeLL :=
  by unfold State.raiseDecode State.raise; split <;> rfl
@[simp] theorem State.raiseDecode_codeD (e : HwError) : (s.raiseDecode e).codeD = s.codeD :=
  by unfold State.raiseDecode State.raise; split <;> rfl
@[simp] theorem State.raiseDecode_codeCL (e : HwError) : (s.raiseDecode e).codeCL = s.codeCL :=
  by unfold State.raiseDecode State.raise; split <;> rfl
@[simp] theorem State.raiseDecode_tok (e : HwError) : (s.raiseDecode e).tok = s.tok :=
  by unfold State.raiseDecode State.raise; split <;> rfl
@[simp] theorem State.raiseDecode_run (e : HwError) : (s.raiseDecode e).run = s.run :=
  by unfold State.raiseDecode State.raise; split <;> rfl
@[simp] theorem State.raiseDecode_host (e : HwError) : (s.raiseDecode e).host = s.host :=
  by unfold State.raiseDecode State.raise; split <;> rfl
@[simp] theorem State.raiseDecode_hostData (e : HwError) : (s.raiseDecode e).hostData = s.hostData :=
  by unfold State.raiseDecode State.raise; split <;> rfl

/-! ### What the conditional updates change -/

@[simp] theorem State.raise_status (k : ErrorKeep) (e : HwError) : (s.raise k e).status = .error := by
  unfold State.raise; split <;> rfl
@[simp] theorem State.raise_err (k : ErrorKeep) (e : HwError) : (s.raise k e).err = some e := by
  unfold State.raise; split <;> rfl
@[simp] theorem State.raiseDecode_status (e : HwError) : (s.raiseDecode e).status = .error := by
  simp [State.raiseDecode]
@[simp] theorem State.raiseDecode_err (e : HwError) : (s.raiseDecode e).err = some e := by
  simp [State.raiseDecode]
@[simp] theorem State.raiseDecode_phase (e : HwError) : (s.raiseDecode e).phase = .idle := rfl
@[simp] theorem State.appendBits_wpos (bits : List Bool) :
    (s.appendBits bits).wpos = s.wpos + bits.length := by
  cases bits <;> simp [State.appendBits]
@[simp] theorem State.outBytes_wpos (bs : List Byte) :
    (s.outBytes bs).wpos = s.wpos + 8 * bs.length := by
  cases bs <;> simp [State.outBytes]
theorem State.raise_invalidConfig (k : ErrorKeep) :
    s.raise k .invalidConfig = s.flagError .invalidConfig := rfl
theorem State.raise_other (k : ErrorKeep) {e : HwError} (h : e ≠ .invalidConfig) :
    s.raise k e = (s.dropAfterError k).flagError e := by simp [State.raise, h]

/-! ### The host's registers that are computed -/

theorem State.olen_eq : s.olen = (s.wpos + 7) / 8 := rfl
theorem State.remaining_eq : s.remaining = 8 * s.ilen - s.rpos := rfl
@[simp] theorem State.begin_begin : s.begin.begin = s.begin := rfl
@[simp] theorem State.skip_zero : s.skip 0 = s := rfl
theorem State.skip_skip (m n : Nat) : (s.skip m).skip n = s.skip (m + n) := by
  simp [State.skip, Nat.add_assoc]

end Sys2Proof.Machine
end

