-- ==== Sys2Proof/Laws/Ops.lean ====
section
/-! SUPPORT. For each shared operation, once, everything it can do: proofs cite these and do not unfold
the operation. -/

namespace Sys2Proof.Machine

/-! ### The command step -/

theorem command_of_ok {k : ErrorKeep} {body : State → Except HwError State} {s u : State}
    (h : body s.begin = .ok u) : command k body s = .next u.finish := by simp [command, h]

theorem command_of_error {k : ErrorKeep} {body : State → Except HwError State} {s : State}
    {e : HwError} (h : body s.begin = .error e) :
    command k body s = .next (s.begin.raise k e) := by simp [command, h]

/-- A command ends in `DONE` after its body, or in the error the body raised; it always ends. -/
theorem command_next {k : ErrorKeep} {body : State → Except HwError State} {s t : State} :
    command k body s = .next t ↔
      (∃ u, body s.begin = .ok u ∧ t = u.finish) ∨
        ∃ e, body s.begin = .error e ∧ t = s.begin.raise k e := by
  unfold command
  cases h : body s.begin <;> simp [eq_comm]

theorem command_ne_fault (k : ErrorKeep) (body : State → Except HwError State) (s : State)
    (f : Fault) : command k body s ≠ .fault f := by simp [command]

theorem command_ne_refused (k : ErrorKeep) (body : State → Except HwError State) (s : State)
    (r : Refusal) : command k body s ≠ .refused r := by simp [command]

/-! ### Errors -/

/-- `InvalidConfig` changes the flags alone. -/
theorem begin_raise_invalidConfig (k : ErrorKeep) (s : State) :
    s.begin.raise k .invalidConfig = s.flagError .invalidConfig := rfl

/-- Any other error keeps what R359 keeps. -/
theorem keptAfterError_raise (k : ErrorKeep) {e : HwError} (s : State) (h : e ≠ .invalidConfig) :
    keptAfterError e s (s.raise k e) := by
  rw [State.raise_other s k h]
  rfl

theorem keptAfterError_begin_raise (k : ErrorKeep) {e : HwError} (s : State)
    (h : e ≠ .invalidConfig) : keptAfterError e s (s.begin.raise k e) := by
  rw [State.raise_other s.begin k h]
  rfl

theorem raise_rpos_of_keep {k : ErrorKeep} (hk : k.rpos = true) (s : State) (e : HwError) :
    (s.raise k e).rpos = s.rpos := by
  unfold State.raise
  split
  · rfl
  · simp [State.dropAfterError, State.flagError, hk]

theorem raiseDecode_of_ne {e : HwError} (s : State) (h : e ≠ .invalidConfig) :
    s.raiseDecode e = { (s.dropAfterError s.decodeKeep).flagError e with phase := .idle } := by
  rw [State.raiseDecode, State.raise_other s _ h]

theorem keptAfterDecodeError_raiseDecode {e : HwError} (s : State) (h : e ≠ .invalidConfig) :
    keptAfterDecodeError e s (s.raiseDecode e) := by
  rw [raiseDecode_of_ne s h]
  rfl

/-- The read cursor stays within the input after an error (R26). -/
theorem raise_rpos_le (k : ErrorKeep) (e : HwError) (s : State) (h : s.rpos ≤ 8 * s.ilen) :
    (s.raise k e).rpos ≤ 8 * s.ilen := by
  unfold State.raise
  split
  · exact h
  · simp only [State.flagError_rpos, State.dropAfterError]
    split
    · exact h
    · have : Config.freeNat 10 s.fresh % (8 * s.ilen + 1) < 8 * s.ilen + 1 :=
        Nat.mod_lt _ (by omega)
      omega

/-! ### Reading the stream -/

theorem readBits_of_le {n : Nat} {s : State} (h : n ≤ s.remaining) :
    s.readBits n = some (fieldAt s.streamBit 0 n, s.skip n) := by
  simp [State.readBits, Nat.not_lt.2 h]

theorem readBits_of_lt {n : Nat} {s : State} (h : s.remaining < n) : s.readBits n = none := by
  simp [State.readBits, h]

/-- `ReadBits` has two outcomes: too few bits, or the next `n` bits. -/
theorem readBits_cases (n : Nat) (s : State) :
    (s.remaining < n ∧ s.readBits n = none) ∨
      (n ≤ s.remaining ∧ s.readBits n = some (fieldAt s.streamBit 0 n, s.skip n)) := by
  rcases Nat.lt_or_ge s.remaining n with h | h
  · exact .inl ⟨h, readBits_of_lt h⟩
  · exact .inr ⟨h, readBits_of_le h⟩

theorem streamBit_skip (n i : Nat) (s : State) : (s.skip n).streamBit i = s.streamBit (n + i) := by
  simp [State.streamBit, State.ibufAt, State.skip, Nat.add_assoc]

theorem remaining_skip (n : Nat) (s : State) : (s.skip n).remaining = s.remaining - n := by
  simp only [State.remaining, State.skip_rpos, State.skip_ilen]
  omega

/-! ### Writing the stream -/

@[simp] theorem appendBits_nil (s : State) : s.appendBits [] = s := rfl

@[simp] theorem outBytes_nil (s : State) : s.outBytes [] = s := rfl

theorem length_packBits (acc k : Nat) (bits : List Bool) (hk : k < 8) :
    (packBits acc k bits).length = (k + bits.length + 7) / 8 := by
  induction bits generalizing acc k with
  | nil =>
    unfold packBits
    split
    · next h => subst h; rfl
    · simp; omega
  | cons b bs ih =>
    unfold packBits
    simp only
    split
    · next h => rw [List.length_cons, ih 0 0 (by omega), List.length_cons]; omega
    · rw [ih _ _ (by omega), List.length_cons]; omega

/-- Bytes outside the ones the bits lie in read as before. -/
theorem obufAt_appendBits_of_outside (bits : List Bool) (s : State) (a : Nat)
    (h : a < s.wpos / 8 ∨ (s.wpos + bits.length + 7) / 8 ≤ a) :
    (s.appendBits bits).obufAt a = s.obufAt a := by
  unfold State.appendBits
  split
  · rfl
  · unfold State.obufAt
    apply Memory.read_writeRun_of_outside
    rw [length_packBits _ _ _ (Nat.mod_lt _ (by omega))]
    omega

/-- The bytes put out are read back. -/
theorem obufAt_outBytes (bs : List Byte) (s : State) (i : Nat) (h : i < bs.length) :
    (s.outBytes bs).obufAt (s.wpos / 8 + i) = bs[i] := by
  unfold State.outBytes
  split
  · next hb => simp at hb; simp [hb] at h
  · unfold State.obufAt
    have := s.obuf.read_writeRun_mem (s.wpos / 8) bs 2 (s.wpos / 8 + i) (by omega) (by omega)
    simpa using this

theorem obufAt_outBytes_of_outside (bs : List Byte) (s : State) (a : Nat)
    (h : a < s.wpos / 8 ∨ s.wpos / 8 + bs.length ≤ a) : (s.outBytes bs).obufAt a = s.obufAt a := by
  unfold State.outBytes
  split
  · rfl
  · exact Memory.read_writeRun_of_outside _ _ _ _ _ h

@[simp] theorem copyBytes_zero (d : Nat) (s : State) : copyBytes d 0 s = s := rfl

theorem copyBytes_succ (d n : Nat) (s : State) :
    copyBytes d (n + 1) s = copyBytes d n (s.outBytes [s.obufAt (s.olen - d)]) := rfl

/-- A copy changes the output and its cursor alone. -/
theorem copyBytes_frame (d n : Nat) (s : State) :
    copyBytes d n s =
      { s with obuf := (copyBytes d n s).obuf, wpos := (copyBytes d n s).wpos } := by
  induction n generalizing s with
  | zero => rfl
  | succ n ih =>
    rw [copyBytes_succ, ih]
    simp [State.outBytes]

theorem copyBytes_wpos (d n : Nat) (s : State) : (copyBytes d n s).wpos = s.wpos + 8 * n := by
  induction n generalizing s with
  | zero => rfl
  | succ n ih => rw [copyBytes_succ, ih, State.outBytes_wpos]; simp; omega

/-- `CopyMatch` has two outcomes: the distance is refused, or the bytes are copied. -/
theorem copyMatch_cases (length dist : Nat) (s : State) :
    ((s.window < dist ∨ s.olen < dist) ∧ s.copyMatch length dist = .error .windowSizeExceeded) ∨
      ((dist ≤ s.window ∧ dist ≤ s.olen) ∧
        s.copyMatch length dist = .ok (copyBytes dist length s)) := by
  unfold State.copyMatch
  split
  · next h => exact .inl ⟨h, rfl⟩
  · next h => exact .inr ⟨by omega, rfl⟩

/-! ### The decode tables -/

theorem buildDecoder_cases (a : Alphabet) (lens : List Nat) (s : State) :
    (codeAccepted a lens = true ∧ s.buildDecoder a lens = .ok (s.setDtbl a (builtTable a lens))) ∨
      (codeAccepted a lens = false ∧ s.buildDecoder a lens = .error .invalidHuffmanCode) := by
  unfold State.buildDecoder
  cases h : codeAccepted a lens <;> simp

/-- `DecodeSym` in the order of its checks (R196). -/
theorem decodeSym_cases (a : Alphabet) (t : DecTable) (bit : Nat → Bool) (rem : Nat) :
    ((t.entry a (fieldAt (peekBit bit rem) 0 a.maxBits)).2 = 0 ∧
        decodeSym a t bit rem = .error (.raises .invalidHuffmanCode)) ∨
      (0 < (t.entry a (fieldAt (peekBit bit rem) 0 a.maxBits)).2 ∧
        rem < (t.entry a (fieldAt (peekBit bit rem) 0 a.maxBits)).2 ∧
        decodeSym a t bit rem = .error (.raises .truncatedInput)) ∨
      (0 < (t.entry a (fieldAt (peekBit bit rem) 0 a.maxBits)).2 ∧
        (t.entry a (fieldAt (peekBit bit rem) 0 a.maxBits)).2 ≤ rem ∧
        decodeSym a t bit rem = .ok (t.entry a (fieldAt (peekBit bit rem) 0 a.maxBits))) := by
  unfold decodeSym
  simp only
  split
  · next h => exact .inl ⟨h, rfl⟩
  · next h =>
    split
    · next h' => exact .inr (.inl ⟨by omega, h', rfl⟩)
    · next h' => exact .inr (.inr ⟨by omega, by omega, rfl⟩)

/-! ### Stream elements -/

theorem headerElement_next {f : Bool} {bt : BitVec 2} {g : State → State} {s t : State}
    (h : headerElement f bt g s = .next t) :
    s.phase = .blockHdr ∧
      t = g { s.skip 3 with run := { s.run with bfinal := f, btype := bt } } := by
  unfold headerElement at h
  split at h
  · next hp => exact ⟨hp, by simpa using h.symm⟩
  · cases h

theorem literalElement_next {k : BlockKind} {b : Byte} {n : Nat} {s t : State}
    (h : literalElement k b n s = .next t) :
    s.phase = .data k ∧ t = (s.skip n).outBytes [b] := by
  unfold literalElement at h
  split at h
  · next hp => exact ⟨hp, by simpa using h.symm⟩
  · cases h

theorem eobElement_next {k : BlockKind} {n : Nat} {s t : State}
    (h : eobElement k n s = .next t) : s.phase = .data k ∧ t = (s.skip n).endBlock := by
  unfold eobElement at h
  split at h
  · next hp => exact ⟨hp, by simpa using h.symm⟩
  · cases h

theorem lengthCodeElement_next {k : BlockKind} {sym n : Nat} {s t : State}
    (h : lengthCodeElement k sym n s = .next t) :
    s.phase = .data k ∧ t = { s.skip n with phase := .lenExtra k sym } := by
  unfold lengthCodeElement at h
  split at h
  · next hp => exact ⟨hp, by simpa using h.symm⟩
  · cases h

theorem distCodeElement_next {k : BlockKind} {d n : Nat} {s t : State}
    (h : distCodeElement k d n s = .next t) :
    ∃ len, s.phase = .distCode k len ∧ t = { s.skip n with phase := .distExtra k len d } := by
  unfold distCodeElement at h
  split at h
  · next k' len hp =>
    split at h
    · next hk => subst hk; exact ⟨len, hp, by simpa using h.symm⟩
    · cases h
  · cases h

theorem lengthElement_next {i x : Nat} {s t : State} (h : lengthElement i x s = .next t) :
    ∃ k, s.phase = .lenExtra k (257 + i) ∧
      t = { s.skip (lengthExtra i) with phase := .distCode k (lengthBase i + x) } := by
  unfold lengthElement at h
  split at h
  · next k sym hp =>
    split at h
    · next hs => subst hs; exact ⟨k, hp, by simpa using h.symm⟩
    · cases h
  · cases h

/-- A distance symbol ends the copy, or raises `WindowSizeExceeded`. -/
theorem distElement_next {d x : Nat} {s t : State} (h : distElement d x s = .next t) :
    ∃ k len, s.phase = .distExtra k len d ∧
      ((distBase d + x ≤ s.window ∧ distBase d + x ≤ s.olen ∧
          t = { copyBytes (distBase d + x) len (s.skip (distExtra d)) with phase := .data k }) ∨
        ((s.window < distBase d + x ∨ s.olen < distBase d + x) ∧
          t = s.raiseDecode .windowSizeExceeded)) := by
  unfold distElement at h
  split at h
  · next k len d' hp =>
    split at h
    · next hd =>
      subst hd
      refine ⟨k, len, hp, ?_⟩
      rcases copyMatch_cases len (distBase d' + x) (s.skip (distExtra d')) with ⟨hc, he⟩ | ⟨hc, he⟩
      · rw [he] at h
        exact .inr ⟨hc, by simpa using h.symm⟩
      · rw [he] at h
        exact .inl ⟨hc.1, hc.2, by simpa using h.symm⟩
    · cases h
  · cases h

theorem distInvalidElement_next {d : Nat} {s t : State} (h : distInvalidElement d s = .next t) :
    (∃ k len, s.phase = .distExtra k len d) ∧ t = s.raiseDecode .invalidHuffmanCode := by
  unfold distInvalidElement at h
  split at h
  · next k len d' hp =>
    split at h
    · next hd => subst hd; exact ⟨⟨k, len, hp⟩, by simpa using h.symm⟩
    · cases h
  · cases h

/-- The last part of `LoadDynamic`: refused, or both tables built. -/
theorem loadDynamic_cases (nl : Nat) (seq : List Nat) (s : State) :
    s.loadDynamic nl seq = .error .invalidHuffmanCode ∨
      ∃ ll d, codeAccepted .ll ll = true ∧ codeAccepted .d d = true ∧
        s.loadDynamic nl seq =
          .ok { (((s.setLens .ll ll).setLens .d d).setDtbl .ll (builtTable .ll ll)).setDtbl .d
              (builtTable .d d) with phase := .data .dynamic } ∧
        ll = seq.take nl ++ List.replicate (288 - nl) 0 ∧
        d = seq.drop nl ++ List.replicate (32 - (seq.length - nl)) 0 := by
  unfold State.loadDynamic
  simp only
  split
  · exact .inl rfl
  · rcases buildDecoder_cases .ll (seq.take nl ++ List.replicate (288 - nl) 0)
      ((s.setLens .ll (seq.take nl ++ List.replicate (288 - nl) 0)).setLens .d
        (seq.drop nl ++ List.replicate (32 - (seq.length - nl)) 0)) with ⟨h, e⟩ | ⟨-, e⟩
    · rw [e]
      simp only
      rcases buildDecoder_cases .d (seq.drop nl ++ List.replicate (32 - (seq.length - nl)) 0)
        (((s.setLens .ll (seq.take nl ++ List.replicate (288 - nl) 0)).setLens .d
          (seq.drop nl ++ List.replicate (32 - (seq.length - nl)) 0)).setDtbl .ll
            (builtTable .ll (seq.take nl ++ List.replicate (288 - nl) 0))) with ⟨h', e'⟩ | ⟨-, e'⟩
      · rw [e']
        exact .inr ⟨_, _, h, h', rfl, rfl, rfl⟩
      · rw [e']
        exact .inl rfl
    · rw [e]
      exact .inl rfl

/-- Code lengths after one more element: refused, loaded, or still to be continued. -/
theorem extendLens_cases (nl nd : Nat) (seq : List Nat) (s : State) :
    s.extendLens nl nd seq = .error .invalidHuffmanCode ∨
      (seq.length = nl + nd ∧ s.extendLens nl nd seq = s.loadDynamic nl seq) ∨
      (seq.length < nl + nd ∧
        s.extendLens nl nd seq = .ok { s with phase := .dynLens nl nd seq }) := by
  unfold State.extendLens
  split
  · exact .inl rfl
  · split
    · next h => exact .inr (.inl ⟨h, rfl⟩)
    · next h h' => exact .inr (.inr ⟨by omega, rfl⟩)

/-- The end of a block: `DECBLK` is done; `DECOMPRESS` is done, at the trailer, or at the next header. -/
theorem endBlock_cases (s : State) :
    (s.run.whole = false ∧
      s.endBlock =
        ({ s.dropTables with
            res0 := if s.run.bfinal then 1 else 0
            res1 := s.run.btype.setWidth 32
            phase := .idle }).finish) ∨
      (s.run.whole = true ∧ s.run.bfinal = false ∧ s.endBlock = { s with phase := .blockHdr }) ∨
      (s.run.whole = true ∧ s.run.bfinal = true ∧ s.cfgFraming = 1 ∧
        s.endBlock = { s.alignR with phase := .zlibAdler }) ∨
      (s.run.whole = true ∧ s.run.bfinal = true ∧ s.cfgFraming ≠ 1 ∧
        s.endBlock =
          ({ s.alignR.dropTables with icons := s.alignR.rpos / 8, phase := .idle }).finish) := by
  unfold State.endBlock
  cases hw : s.run.whole
  · simp
  · cases hb : s.run.bfinal
    · simp
    · by_cases hf : s.cfgFraming = 1
      · exact .inr (.inr (.inl ⟨rfl, rfl, hf, by simp [hf]⟩))
      · exact .inr (.inr (.inr ⟨rfl, rfl, hf, by rw [if_pos rfl, if_pos rfl, if_neg hf]⟩))

/-! ### Running elements -/

theorem runElements_of_idle {n : Nat} {s : State} (h : s.phase = .idle) :
    runElements n s = .next s := by cases n <;> simp [runElements, h]

theorem runElements_succ {n : Nat} {s t : State} (h : s.phase ≠ .idle)
    (hs : elementStep s = .next t) : runElements (n + 1) s = runElements n t := by
  simp [runElements, h, hs]

/-- A run that ends has ended its command. -/
theorem runElements_next_idle {n : Nat} {s t : State} (h : runElements n s = .next t) :
    t.phase = .idle := by
  induction n generalizing s with
  | zero =>
    unfold runElements at h
    split at h
    · next hp => injection h with h; exact h ▸ hp
    · cases h
  | succ n ih =>
    unfold runElements at h
    split at h
    · next hp => injection h with h; exact h ▸ hp
    · split at h
      · exact ih h
      · cases h
      · cases h

/-- A decode step executes the element at the cursor, or takes the error its reading raises. -/
theorem elementStep_cases (s : State) :
    (∃ i n, decodeElem s.ctx s.streamBit s.remaining = .ok (i, n) ∧
        elementStep s = execElement i s) ∨
      (∃ e, decodeElem s.ctx s.streamBit s.remaining = .error (.raises e) ∧
        elementStep s = .next (s.raiseDecode e)) ∨
      (decodeElem s.ctx s.streamBit s.remaining = .error .notDecoding ∧
        elementStep s = .fault .elementOutOfMode) := by
  unfold elementStep State.fetchElement
  match decodeElem s.ctx s.streamBit s.remaining with
  | .ok (i, n) => exact .inl ⟨i, n, rfl, rfl⟩
  | .error (.raises e) => exact .inr (.inl ⟨e, rfl, rfl⟩)
  | .error .notDecoding => exact .inr (.inr ⟨rfl, rfl⟩)

/-! ### The step -/

theorem step_of_idle_empty {s : State} (hp : s.phase = .idle) (hh : s.host = []) :
    step s = .next s := by simp [step, hp, hh]

theorem step_of_busy {s : State} (hp : s.phase = .idle) (hh : s.host ≠ [])
    (hb : s.status = .busy) : step s = .refused .busyAccess := by simp [step, hp, hh, hb]

theorem step_of_access {s : State} {x : HostTxn} {rest : List HostTxn} (hp : s.phase = .idle)
    (hb : s.status ≠ .busy) (hh : s.host = x :: rest) (hd : decodeHost s.host = none) :
    step s = hostAccess x { s with host := rest } := by
  have hn : s.host ≠ [] := by simp [hh]
  rw [step, if_pos hp, if_neg hn, if_neg hb, hd]
  simp [hh]

end Sys2Proof.Machine
end

