-- ==== Sys2Proof/Laws/PerInstr.lean ====
section
/-! SUPPORT. Statements made per instruction. The two encodings of the hardware (spec/30_encoding.md R90,
R100) are apart: what the host spells as a command is in no decode mode an element of the stream. -/

namespace Sys2Proof.Laws.CommandOrElement

/-- An instruction the host can spell is a stream element in no decode mode. -/
def Statement (i : Instr) : Prop := (encodeHost i).isSome = true → ∀ p : Phase, p.admits i = false

theorem compress : Statement .compress := by
  intro _ p
  cases p <;> first | rfl | (next k => cases k <;> rfl) | (next k _ => cases k <;> rfl)

theorem decompress : Statement .decompress := by
  intro _ p
  cases p <;> first | rfl | (next k => cases k <;> rfl) | (next k _ => cases k <;> rfl)

theorem bitinit : Statement .bitinit := by
  intro _ p
  cases p <;> first | rfl | (next k => cases k <;> rfl) | (next k _ => cases k <;> rfl)

theorem wrbits : Statement .wrbits := by
  intro _ p
  cases p <;> first | rfl | (next k => cases k <;> rfl) | (next k _ => cases k <;> rfl)

theorem rdbits : Statement .rdbits := by
  intro _ p
  cases p <;> first | rfl | (next k => cases k <;> rfl) | (next k _ => cases k <;> rfl)

theorem alignw : Statement .alignw := by
  intro _ p
  cases p <;> first | rfl | (next k => cases k <;> rfl) | (next k _ => cases k <;> rfl)

theorem alignr : Statement .alignr := by
  intro _ p
  cases p <;> first | rfl | (next k => cases k <;> rfl) | (next k _ => cases k <;> rfl)

theorem hbuild : Statement .hbuild := by
  intro _ p
  cases p <;> first | rfl | (next k => cases k <;> rfl) | (next k _ => cases k <;> rfl)

theorem hcanon : Statement .hcanon := by
  intro _ p
  cases p <;> first | rfl | (next k => cases k <;> rfl) | (next k _ => cases k <;> rfl)

theorem hput : Statement .hput := by
  intro _ p
  cases p <;> first | rfl | (next k => cases k <;> rfl) | (next k _ => cases k <;> rfl)

theorem hdbuild : Statement .hdbuild := by
  intro _ p
  cases p <;> first | rfl | (next k => cases k <;> rfl) | (next k _ => cases k <;> rfl)

theorem hdsym : Statement .hdsym := by
  intro _ p
  cases p <;> first | rfl | (next k => cases k <;> rfl) | (next k _ => cases k <;> rfl)

theorem mfind : Statement .mfind := by
  intro _ p
  cases p <;> first | rfl | (next k => cases k <;> rfl) | (next k _ => cases k <;> rfl)

theorem tokenize : Statement .tokenize := by
  intro _ p
  cases p <;> first | rfl | (next k => cases k <;> rfl) | (next k _ => cases k <;> rfl)

theorem encblk : Statement .encblk := by
  intro _ p
  cases p <;> first | rfl | (next k => cases k <;> rfl) | (next k _ => cases k <;> rfl)

theorem decblk : Statement .decblk := by
  intro _ p
  cases p <;> first | rfl | (next k => cases k <;> rfl) | (next k _ => cases k <;> rfl)

theorem adler32 : Statement .adler32 := by
  intro _ p
  cases p <;> first | rfl | (next k => cases k <;> rfl) | (next k _ => cases k <;> rfl)

theorem reservedCmd (op : BitVec 8) : Statement (.reservedCmd op) := by
  intro _ p
  cases p <;> first | rfl | (next k => cases k <;> rfl) | (next k _ => cases k <;> rfl)

theorem zcompress : Statement .zcompress := by
  intro _ p
  cases p <;> first | rfl | (next k => cases k <;> rfl) | (next k _ => cases k <;> rfl)

theorem zdecompress : Statement .zdecompress := by
  intro _ p
  cases p <;> first | rfl | (next k => cases k <;> rfl) | (next k _ => cases k <;> rfl)

theorem rawcompress : Statement .rawcompress := by
  intro _ p
  cases p <;> first | rfl | (next k => cases k <;> rfl) | (next k _ => cases k <;> rfl)

theorem rawdecompress : Statement .rawdecompress := by
  intro _ p
  cases p <;> first | rfl | (next k => cases k <;> rfl) | (next k _ => cases k <;> rfl)

theorem blockStored (bfinal : Bool) : Statement (.blockStored bfinal) := fun h => nomatch (show false = true from h)

theorem blockFixed (bfinal : Bool) : Statement (.blockFixed bfinal) := fun h => nomatch (show false = true from h)

theorem blockDynamic (bfinal : Bool) : Statement (.blockDynamic bfinal) := fun h => nomatch (show false = true from h)

theorem blockReserved (bfinal : Bool) : Statement (.blockReserved bfinal) := fun h => nomatch (show false = true from h)

theorem storedLen (len : BitVec 16) (nlen : BitVec 16) : Statement (.storedLen len nlen) := fun h => nomatch (show false = true from h)

theorem storedData (payload : List (BitVec 8)) : Statement (.storedData payload) := fun h => nomatch (show false = true from h)

theorem fixedLit0To143 (sym : BitVec 8) : Statement (.fixedLit0To143 sym) := fun h => nomatch (show false = true from h)

theorem fixedLit144To255 (sym : BitVec 8) : Statement (.fixedLit144To255 sym) := fun h => nomatch (show false = true from h)

theorem fixedEob : Statement .fixedEob := fun h => nomatch (show false = true from h)

theorem fixedLen257To279 (sym : BitVec 9) : Statement (.fixedLen257To279 sym) := fun h => nomatch (show false = true from h)

theorem fixedLen280To285 (sym : BitVec 9) : Statement (.fixedLen280To285 sym) := fun h => nomatch (show false = true from h)

theorem fixedLL286To287 (sym : BitVec 9) : Statement (.fixedLL286To287 sym) := fun h => nomatch (show false = true from h)

theorem fixedDist (d : BitVec 5) : Statement (.fixedDist d) := fun h => nomatch (show false = true from h)

theorem dynLit (sym : BitVec 8) (n : BitVec 4) : Statement (.dynLit sym n) := fun h => nomatch (show false = true from h)

theorem dynEob (n : BitVec 4) : Statement (.dynEob n) := fun h => nomatch (show false = true from h)

theorem dynLen (sym : BitVec 9) (n : BitVec 4) : Statement (.dynLen sym n) := fun h => nomatch (show false = true from h)

theorem dynDist (d : BitVec 5) (n : BitVec 4) : Statement (.dynDist d n) := fun h => nomatch (show false = true from h)

theorem len257 : Statement .len257 := fun h => nomatch (show false = true from h)

theorem len258 : Statement .len258 := fun h => nomatch (show false = true from h)

theorem len259 : Statement .len259 := fun h => nomatch (show false = true from h)

theorem len260 : Statement .len260 := fun h => nomatch (show false = true from h)

theorem len261 : Statement .len261 := fun h => nomatch (show false = true from h)

theorem len262 : Statement .len262 := fun h => nomatch (show false = true from h)

theorem len263 : Statement .len263 := fun h => nomatch (show false = true from h)

theorem len264 : Statement .len264 := fun h => nomatch (show false = true from h)

theorem len265 (x : BitVec 1) : Statement (.len265 x) := fun h => nomatch (show false = true from h)

theorem len266 (x : BitVec 1) : Statement (.len266 x) := fun h => nomatch (show false = true from h)

theorem len267 (x : BitVec 1) : Statement (.len267 x) := fun h => nomatch (show false = true from h)

theorem len268 (x : BitVec 1) : Statement (.len268 x) := fun h => nomatch (show false = true from h)

theorem len269 (x : BitVec 2) : Statement (.len269 x) := fun h => nomatch (show false = true from h)

theorem len270 (x : BitVec 2) : Statement (.len270 x) := fun h => nomatch (show false = true from h)

theorem len271 (x : BitVec 2) : Statement (.len271 x) := fun h => nomatch (show false = true from h)

theorem len272 (x : BitVec 2) : Statement (.len272 x) := fun h => nomatch (show false = true from h)

theorem len273 (x : BitVec 3) : Statement (.len273 x) := fun h => nomatch (show false = true from h)

theorem len274 (x : BitVec 3) : Statement (.len274 x) := fun h => nomatch (show false = true from h)

theorem len275 (x : BitVec 3) : Statement (.len275 x) := fun h => nomatch (show false = true from h)

theorem len276 (x : BitVec 3) : Statement (.len276 x) := fun h => nomatch (show false = true from h)

theorem len277 (x : BitVec 4) : Statement (.len277 x) := fun h => nomatch (show false = true from h)

theorem len278 (x : BitVec 4) : Statement (.len278 x) := fun h => nomatch (show false = true from h)

theorem len279 (x : BitVec 4) : Statement (.len279 x) := fun h => nomatch (show false = true from h)

theorem len280 (x : BitVec 4) : Statement (.len280 x) := fun h => nomatch (show false = true from h)

theorem len281 (x : BitVec 5) : Statement (.len281 x) := fun h => nomatch (show false = true from h)

theorem len282 (x : BitVec 5) : Statement (.len282 x) := fun h => nomatch (show false = true from h)

theorem len283 (x : BitVec 5) : Statement (.len283 x) := fun h => nomatch (show false = true from h)

theorem len284 (x : BitVec 5) : Statement (.len284 x) := fun h => nomatch (show false = true from h)

theorem len285 : Statement .len285 := fun h => nomatch (show false = true from h)

theorem dist0 : Statement .dist0 := fun h => nomatch (show false = true from h)

theorem dist1 : Statement .dist1 := fun h => nomatch (show false = true from h)

theorem dist2 : Statement .dist2 := fun h => nomatch (show false = true from h)

theorem dist3 : Statement .dist3 := fun h => nomatch (show false = true from h)

theorem dist4 (x : BitVec 1) : Statement (.dist4 x) := fun h => nomatch (show false = true from h)

theorem dist5 (x : BitVec 1) : Statement (.dist5 x) := fun h => nomatch (show false = true from h)

theorem dist6 (x : BitVec 2) : Statement (.dist6 x) := fun h => nomatch (show false = true from h)

theorem dist7 (x : BitVec 2) : Statement (.dist7 x) := fun h => nomatch (show false = true from h)

theorem dist8 (x : BitVec 3) : Statement (.dist8 x) := fun h => nomatch (show false = true from h)

theorem dist9 (x : BitVec 3) : Statement (.dist9 x) := fun h => nomatch (show false = true from h)

theorem dist10 (x : BitVec 4) : Statement (.dist10 x) := fun h => nomatch (show false = true from h)

theorem dist11 (x : BitVec 4) : Statement (.dist11 x) := fun h => nomatch (show false = true from h)

theorem dist12 (x : BitVec 5) : Statement (.dist12 x) := fun h => nomatch (show false = true from h)

theorem dist13 (x : BitVec 5) : Statement (.dist13 x) := fun h => nomatch (show false = true from h)

theorem dist14 (x : BitVec 6) : Statement (.dist14 x) := fun h => nomatch (show false = true from h)

theorem dist15 (x : BitVec 6) : Statement (.dist15 x) := fun h => nomatch (show false = true from h)

theorem dist16 (x : BitVec 7) : Statement (.dist16 x) := fun h => nomatch (show false = true from h)

theorem dist17 (x : BitVec 7) : Statement (.dist17 x) := fun h => nomatch (show false = true from h)

theorem dist18 (x : BitVec 8) : Statement (.dist18 x) := fun h => nomatch (show false = true from h)

theorem dist19 (x : BitVec 8) : Statement (.dist19 x) := fun h => nomatch (show false = true from h)

theorem dist20 (x : BitVec 9) : Statement (.dist20 x) := fun h => nomatch (show false = true from h)

theorem dist21 (x : BitVec 9) : Statement (.dist21 x) := fun h => nomatch (show false = true from h)

theorem dist22 (x : BitVec 10) : Statement (.dist22 x) := fun h => nomatch (show false = true from h)

theorem dist23 (x : BitVec 10) : Statement (.dist23 x) := fun h => nomatch (show false = true from h)

theorem dist24 (x : BitVec 11) : Statement (.dist24 x) := fun h => nomatch (show false = true from h)

theorem dist25 (x : BitVec 11) : Statement (.dist25 x) := fun h => nomatch (show false = true from h)

theorem dist26 (x : BitVec 12) : Statement (.dist26 x) := fun h => nomatch (show false = true from h)

theorem dist27 (x : BitVec 12) : Statement (.dist27 x) := fun h => nomatch (show false = true from h)

theorem dist28 (x : BitVec 13) : Statement (.dist28 x) := fun h => nomatch (show false = true from h)

theorem dist29 (x : BitVec 13) : Statement (.dist29 x) := fun h => nomatch (show false = true from h)

theorem dist30 : Statement .dist30 := fun h => nomatch (show false = true from h)

theorem dist31 : Statement .dist31 := fun h => nomatch (show false = true from h)

theorem dynHdr (hlit : BitVec 5) (hdist : BitVec 5) (hclen : BitVec 4) : Statement (.dynHdr hlit hdist hclen) := fun h => nomatch (show false = true from h)

theorem dynClLen (v : BitVec 3) : Statement (.dynClLen v) := fun h => nomatch (show false = true from h)

theorem cl0 (n : BitVec 4) : Statement (.cl0 n) := fun h => nomatch (show false = true from h)

theorem cl1 (n : BitVec 4) : Statement (.cl1 n) := fun h => nomatch (show false = true from h)

theorem cl2 (n : BitVec 4) : Statement (.cl2 n) := fun h => nomatch (show false = true from h)

theorem cl3 (n : BitVec 4) : Statement (.cl3 n) := fun h => nomatch (show false = true from h)

theorem cl4 (n : BitVec 4) : Statement (.cl4 n) := fun h => nomatch (show false = true from h)

theorem cl5 (n : BitVec 4) : Statement (.cl5 n) := fun h => nomatch (show false = true from h)

theorem cl6 (n : BitVec 4) : Statement (.cl6 n) := fun h => nomatch (show false = true from h)

theorem cl7 (n : BitVec 4) : Statement (.cl7 n) := fun h => nomatch (show false = true from h)

theorem cl8 (n : BitVec 4) : Statement (.cl8 n) := fun h => nomatch (show false = true from h)

theorem cl9 (n : BitVec 4) : Statement (.cl9 n) := fun h => nomatch (show false = true from h)

theorem cl10 (n : BitVec 4) : Statement (.cl10 n) := fun h => nomatch (show false = true from h)

theorem cl11 (n : BitVec 4) : Statement (.cl11 n) := fun h => nomatch (show false = true from h)

theorem cl12 (n : BitVec 4) : Statement (.cl12 n) := fun h => nomatch (show false = true from h)

theorem cl13 (n : BitVec 4) : Statement (.cl13 n) := fun h => nomatch (show false = true from h)

theorem cl14 (n : BitVec 4) : Statement (.cl14 n) := fun h => nomatch (show false = true from h)

theorem cl15 (n : BitVec 4) : Statement (.cl15 n) := fun h => nomatch (show false = true from h)

theorem cl16 (n : BitVec 4) (x : BitVec 2) : Statement (.cl16 n x) := fun h => nomatch (show false = true from h)

theorem cl17 (n : BitVec 4) (x : BitVec 3) : Statement (.cl17 n x) := fun h => nomatch (show false = true from h)

theorem cl18 (n : BitVec 4) (x : BitVec 7) : Statement (.cl18 n x) := fun h => nomatch (show false = true from h)

theorem zlibHdr (cmf : BitVec 8) (flg : BitVec 8) : Statement (.zlibHdr cmf flg) := fun h => nomatch (show false = true from h)

theorem zlibAdler (t : BitVec 32) : Statement (.zlibAdler t) := fun h => nomatch (show false = true from h)

end Sys2Proof.Laws.CommandOrElement
end

