-- ==== Sys2Proof/Tests/Slice0.lean ====
section
/-! SUPPORT. Tests on fixed values: ill-formed terms, words written out from the spec's encodings, small
runs of one instruction each with results from the spec's worked examples, and for every statement with
hypotheses a concrete state that meets them. -/

namespace Sys2Proof.Tests

open Sys2Proof.Machine

set_option maxRecDepth 100000

/-! ### Helpers -/

/-- The answer is a next state with a property. -/
def answers (out : Host.Outcome State Fault Refusal) (p : State → Bool) : Bool :=
  match out with
  | .next s => p s
  | _ => false

/-- A state after reset with input bytes. -/
def load (bs : List Nat) : State :=
  { State.reset with
    ibuf := State.reset.ibuf.writeRun 0 (bs.map (BitVec.ofNat 8)), ilen := bs.length }

/-- The listed output cells. -/
def outIs (bs : List Nat) (s : State) : Bool :=
  s.wpos == 8 * bs.length && s.outputBytes.map (·.toNat) == bs

/-- Stream bits from a list, first bit first. -/
def bitsFn (l : List Bool) : Nat → Bool := fun i => l.getD i false

def o : Bool := false
def x : Bool := true

/-! ### Ill-formed terms are refused -/

theorem test_illFormed_reservedCmd_listed : Instr.wellFormed (.reservedCmd 0x10) = false := by decide
theorem test_illFormed_fixedLit0To143_range : Instr.wellFormed (.fixedLit0To143 144) = false := by decide
theorem test_illFormed_fixedLit144To255_range : Instr.wellFormed (.fixedLit144To255 143) = false := by decide
theorem test_illFormed_fixedLen257To279_low : Instr.wellFormed (.fixedLen257To279 256) = false := by decide
theorem test_illFormed_fixedLen257To279_high : Instr.wellFormed (.fixedLen257To279 280) = false := by decide
theorem test_illFormed_fixedLen280To285_low : Instr.wellFormed (.fixedLen280To285 279) = false := by decide
theorem test_illFormed_fixedLen280To285_high : Instr.wellFormed (.fixedLen280To285 286) = false := by decide
theorem test_illFormed_fixedLL286To287_low : Instr.wellFormed (.fixedLL286To287 285) = false := by decide
theorem test_illFormed_fixedLL286To287_high : Instr.wellFormed (.fixedLL286To287 288) = false := by decide
theorem test_illFormed_dynLit_length : Instr.wellFormed (.dynLit 7 0) = false := by decide
theorem test_illFormed_dynEob_length : Instr.wellFormed (.dynEob 0) = false := by decide
theorem test_illFormed_dynLen_low : Instr.wellFormed (.dynLen 256 3) = false := by decide
theorem test_illFormed_dynLen_high : Instr.wellFormed (.dynLen 286 3) = false := by decide
theorem test_illFormed_dynLen_length : Instr.wellFormed (.dynLen 257 0) = false := by decide
theorem test_illFormed_dynDist_range : Instr.wellFormed (.dynDist 30 3) = false := by decide
theorem test_illFormed_dynDist_length : Instr.wellFormed (.dynDist 29 0) = false := by decide
theorem test_illFormed_storedData :
    Instr.wellFormed (.storedData (List.replicate 65536 0)) = false := by
  rw [Instr.wellFormed, List.length_replicate]; decide
theorem test_illFormed_cl_zero :
    ([.cl0 0, .cl1 0, .cl2 0, .cl3 0, .cl4 0, .cl5 0, .cl6 0, .cl7 0, .cl8 0, .cl9 0, .cl10 0, .cl11 0, .cl12 0, .cl13 0, .cl14 0, .cl15 0, .cl16 0 0, .cl17 0 0, .cl18 0 0] :
      List Instr).all (fun i => !i.wellFormed) = true := by decide
theorem test_illFormed_cl_eight :
    ([.cl0 8, .cl1 8, .cl2 8, .cl3 8, .cl4 8, .cl5 8, .cl6 8, .cl7 8, .cl8 8, .cl9 8, .cl10 8, .cl11 8, .cl12 8, .cl13 8, .cl14 8, .cl15 8, .cl16 8 0, .cl17 8 0, .cl18 8 0] :
      List Instr).all (fun i => !i.wellFormed) = true := by decide

/-! ### Decoding: commands (R91, R93, R95) -/

theorem test_decode_opcodes :
    listedOpcodes.map decodeOpcode =
      [.compress, .decompress, .bitinit, .wrbits, .rdbits, .alignw, .alignr, .hbuild, .hcanon,
        .hput, .hdbuild, .hdsym, .mfind, .tokenize, .encblk, .decblk, .adler32] := by decide
theorem test_decode_reserved :
    ([0x00, 0x03, 0x0F, 0x15, 0x1F, 0x23, 0x27, 0x2A, 0x2F, 0x32, 0x3F, 0x41, 0x47, 0x49, 0x4F, 0x51,
      0xFF] : List (BitVec 8)).all (fun b => decodeOpcode b == .reservedCmd b) = true := by decide
theorem test_decode_pseudo :
    [decodeHost [.write 0 6 1, .write 0 0 1], decodeHost [.write 0 6 1, .write 0 0 2],
      decodeHost [.write 0 6 0, .write 0 0 1], decodeHost [.write 0 6 0, .write 0 0 0x102]] =
      [some (.zcompress, []), some (.zdecompress, []), some (.rawcompress, []),
        some (.rawdecompress, [])] := by decide
theorem test_decode_table_words :
    [decodeTableWord 8 0x48, decodeTableWord 8 0x03, decodeTableWord 8 0x05, decodeTableWord 8 0x06,
      decodeTableWord 8 0x02, decodeTableWord 8 0x60, decodeTableWord 16 0] =
      [some .decblk, some (.blockFixed true), some (.blockDynamic true), some (.blockReserved false),
        some .decompress, some (.reservedCmd 0x60), none] := by decide

/-! ### Decoding: stream elements, each word written out in stream order -/

/-- The element at the start of a list of bits, its length being the whole list. -/
def reads (p : Phase) (off : Nat) (ll d cl : DecTable) (l : List Bool) (i : Instr) : Bool :=
  match decodeElem ⟨p, off, ll, d, cl⟩ (bitsFn l) l.length with
  | .ok (j, n) => j == i && n == l.length
  | .error _ => false

/-- The same where no table is read. -/
def readsPlain (p : Phase) (l : List Bool) (i : Instr) : Bool :=
  reads p 0 (.built []) (.built []) (.built []) l i

theorem test_decode_headers :
    (readsPlain .blockHdr [x, o, o] (.blockStored true) &&
      readsPlain .blockHdr [o, x, o] (.blockFixed false) &&
      readsPlain .blockHdr [x, o, x] (.blockDynamic true) &&
      readsPlain .blockHdr [o, x, x] (.blockReserved false)) = true := by decide
theorem test_decode_storedLen :
    reads .storedLen 3 (.built []) (.built []) (.built [])
      [x, o, x, x, o, o, o, x, o, x, x, o, o, o, x, o, o, x, o, o, o,
        x, x, o, x, o, o, x, x, x, o, x, x, o, x, x, x]
      (.storedLen 0x1234 0xEDCB) = true := by decide
theorem test_decode_storedData :
    readsPlain (.storedData 2) [x, o, o, o, o, x, x, o, o, o, o, o, o, o, o, x]
      (.storedData [0x61, 0x80]) = true := by decide
theorem test_decode_dynHdr :
    readsPlain .dynHdr [x, x, x, o, o, x, o, o, o, o, o, x, x, x] (.dynHdr 7 1 14) = true := by
  decide
theorem test_decode_dynClLen :
    readsPlain (.dynClLen 264 2 18 1) [o, x, o] (.dynClLen 2) = true := by decide
theorem test_decode_zlibHdr :
    readsPlain .zlibHdr [o, o, o, x, x, x, x, o, o, o, x, x, x, o, o, x]
      (.zlibHdr 0x78 0x9C) = true := by decide
theorem test_decode_zlibAdler :
    readsPlain .zlibAdler
      [o, x, o, x, x, o, o, o, x, x, o, x, o, o, o, o,
        o, o, x, o, o, o, o, o, x, o, x, x, x, o, x, o]
      (.zlibAdler 0x1A0B045D) = true := by decide
theorem test_decode_fixed :
    ([
      (.data .fixed, [x, o, o, x, o, o, o, x], .fixedLit0To143 0x61),
      (.data .fixed, [x, x, x, o, o, o, o, o, o], .fixedLit144To255 0xC0),
      (.data .fixed, [o, o, o, o, o, o, o], .fixedEob),
      (.data .fixed, [o, o, o, o, x, o, o], .fixedLen257To279 260),
      (.data .fixed, [x, x, o, o, o, x, o, x], .fixedLen280To285 285),
      (.data .fixed, [x, x, o, o, o, x, x, o], .fixedLL286To287 286),
      (.distCode .fixed 6, [x, o, o, x, o], .fixedDist 18)] :
      List (Phase × List Bool × Instr)).all (fun w =>
        reads w.1 0 (fixedTable .ll) (fixedTable .d) (.built []) w.2.1 w.2.2) = true := by decide

/-- The transmitted codes of R258's dynamic example: `a` is `0`, end of block `10`, length symbol 263 `11`;
distance symbol 0 is `0`, 1 is `1`. -/
def dynLL : DecTable := .built [⟨0, 1, 97⟩, ⟨1, 2, 256⟩, ⟨3, 2, 263⟩]
def dynD : DecTable := .built [⟨0, 1, 0⟩, ⟨1, 1, 1⟩]

theorem test_decode_dynamic :
    (reads (.data .dynamic) 0 dynLL dynD (.built []) [o] (.dynLit 0x61 1) &&
      reads (.data .dynamic) 0 dynLL dynD (.built []) [x, o] (.dynEob 2) &&
      reads (.data .dynamic) 0 dynLL dynD (.built []) [x, x] (.dynLen 263 2) &&
      reads (.distCode .dynamic 9) 0 dynLL dynD (.built []) [x] (.dynDist 1 1)) = true := by decide
theorem test_decode_lengths :
    ([
      (257, [], .len257),
      (258, [], .len258),
      (259, [], .len259),
      (260, [], .len260),
      (261, [], .len261),
      (262, [], .len262),
      (263, [], .len263),
      (264, [], .len264),
      (265, [x], .len265 1),
      (266, [x], .len266 1),
      (267, [x], .len267 1),
      (268, [x], .len268 1),
      (269, [o, x], .len269 2),
      (270, [o, x], .len270 2),
      (271, [o, x], .len271 2),
      (272, [o, x], .len272 2),
      (273, [o, x, x], .len273 6),
      (274, [o, x, x], .len274 6),
      (275, [o, x, x], .len275 6),
      (276, [o, x, x], .len276 6),
      (277, [o, x, x, x], .len277 14),
      (278, [o, x, x, x], .len278 14),
      (279, [o, x, x, x], .len279 14),
      (280, [o, x, x, x], .len280 14),
      (281, [o, x, x, x, x], .len281 30),
      (282, [o, x, x, x, x], .len282 30),
      (283, [o, x, x, x, x], .len283 30),
      (284, [o, x, x, x, x], .len284 30),
      (285, [], .len285)] :
      List (Nat × List Bool × Instr)).all (fun w =>
        readsPlain (.lenExtra .fixed w.1) w.2.1 w.2.2) = true := by decide
theorem test_decode_distances :
    ([
      (0, [], .dist0),
      (1, [], .dist1),
      (2, [], .dist2),
      (3, [], .dist3),
      (4, [x], .dist4 1),
      (5, [x], .dist5 1),
      (6, [o, x], .dist6 2),
      (7, [o, x], .dist7 2),
      (8, [o, x, x], .dist8 6),
      (9, [o, x, x], .dist9 6),
      (10, [o, x, x, x], .dist10 14),
      (11, [o, x, x, x], .dist11 14),
      (12, [o, x, x, x, x], .dist12 30),
      (13, [o, x, x, x, x], .dist13 30),
      (14, [o, x, x, x, x, x], .dist14 62),
      (15, [o, x, x, x, x, x], .dist15 62),
      (16, [o, x, x, x, x, x, x], .dist16 126),
      (17, [o, x, x, x, x, x, x], .dist17 126),
      (18, [o, x, x, x, x, x, x, x], .dist18 254),
      (19, [o, x, x, x, x, x, x, x], .dist19 254),
      (20, [o, x, x, x, x, x, x, x, x], .dist20 510),
      (21, [o, x, x, x, x, x, x, x, x], .dist21 510),
      (22, [o, x, x, x, x, x, x, x, x, x], .dist22 1022),
      (23, [o, x, x, x, x, x, x, x, x, x], .dist23 1022),
      (24, [o, x, x, x, x, x, x, x, x, x, x], .dist24 2046),
      (25, [o, x, x, x, x, x, x, x, x, x, x], .dist25 2046),
      (26, [o, x, x, x, x, x, x, x, x, x, x, x], .dist26 4094),
      (27, [o, x, x, x, x, x, x, x, x, x, x, x], .dist27 4094),
      (28, [o, x, x, x, x, x, x, x, x, x, x, x, x], .dist28 8190),
      (29, [o, x, x, x, x, x, x, x, x, x, x, x, x], .dist29 8190),
      (30, [], .dist30),
      (31, [], .dist31)] :
      List (Nat × List Bool × Instr)).all (fun w =>
        readsPlain (.distExtra .fixed 3 w.1) w.2.1 w.2.2) = true := by decide

/-- A code-length code with every symbol used: 0..12 have 4 bits, codewords 0..12; 13..18 have 5 bits,
codewords 26..31 (R170). -/
def clLens : List Nat := List.replicate 13 4 ++ List.replicate 6 5

theorem test_decode_codeLengths :
    ([
      ([o, o, o, o], .cl0 4),
      ([o, o, o, x], .cl1 4),
      ([o, o, x, o], .cl2 4),
      ([o, o, x, x], .cl3 4),
      ([o, x, o, o], .cl4 4),
      ([o, x, o, x], .cl5 4),
      ([o, x, x, o], .cl6 4),
      ([o, x, x, x], .cl7 4),
      ([x, o, o, o], .cl8 4),
      ([x, o, o, x], .cl9 4),
      ([x, o, x, o], .cl10 4),
      ([x, o, x, x], .cl11 4),
      ([x, x, o, o], .cl12 4),
      ([x, x, o, x, o], .cl13 5),
      ([x, x, o, x, x], .cl14 5),
      ([x, x, x, o, o], .cl15 5),
      ([x, x, x, o, x, o, x], .cl16 5 2),
      ([x, x, x, x, o, o, x, x], .cl17 5 6),
      ([x, x, x, x, x, o, x, x, x, x, x, x], .cl18 5 126)] :
      List (List Bool × Instr)).all (fun w =>
        reads (.dynLens 264 2 [5]) 0 (.built []) (.built []) (builtTable .cl clLens) w.1 w.2) = true := by
  decide

/-! ### The step -/

theorem test_fetch_command :
    step (State.reset.withFetchWord 8 0x14) = exec .alignr State.reset := by rfl
theorem test_fetch_header :
    step (State.reset.withFetchWord 8 0x07) =
      exec (.blockReserved true) (State.reset.withFetchWord 8 0x07) := by rfl
theorem test_host_pseudo :
    answers (step { load [] with host := [.write 0 6 1, .write 0 0 1, .read 0 8] })
      (fun t => outIs [0x78, 0x9C, 0x03, 0, 0, 0, 0, 1] t && t.host == [.read 0 8]) = true := by decide

/-! ### Commands: the spec's worked examples -/

/-- R140. -/
theorem test_bitinit :
    answers (exec .bitinit { State.reset with rpos := 9, wpos := 17, ntok := 3, icons := 4 })
      (fun t => t.rpos == 0 && t.olen == 0 && t.ntok == 0 && t.icons == 4) = true := by decide
/-- R147: `5` in 3 bits, then `0x1F` in 5 bits. -/
theorem test_wrbits :
    answers (exec .wrbits { State.reset with arg0 := 5, arg1 := 3 }) (fun s =>
      answers (exec .wrbits { s with arg0 := 0x1F, arg1 := 5 }) (outIs [0xFD])) = true := by decide
theorem test_wrbits_range :
    answers (exec .wrbits { State.reset with arg1 := 33 })
      (fun t => t.err == some .invalidConfig && t.wpos == 0) = true := by decide
/-- R148: 3 bits, 5 bits, then one too many. -/
theorem test_rdbits :
    answers (exec .rdbits { load [0xFD] with arg0 := 3 }) (fun s => s.res0 == 5 &&
      answers (exec .rdbits { s with arg0 := 5 }) (fun t => t.res0 == 31 && t.rpos == 8)) = true := by
  decide
theorem test_rdbits_truncated :
    answers (exec .rdbits { load [0xFD] with arg0 := 9, rpos := 0, res0 := 7 })
      (fun t => t.err == some .truncatedInput && t.rpos == 0 && t.res0 == 7) = true := by decide
/-- R149, R150. -/
theorem test_alignw :
    answers (exec .alignw { State.reset with wpos := 3 }) (fun t => t.wpos == 8) = true := by decide
theorem test_alignr :
    answers (exec .alignr { State.reset with rpos := 16 }) (fun t => t.rpos == 16) = true := by decide
/-- R173: the lengths and codes of the example table under the code-length alphabet. -/
theorem test_hbuild :
    answers (exec .hbuild { State.reset with
        arg0 := 2
        freqCL := State.reset.freqCL.writeRun 0
          ([1, 1, 2, 3, 5, 8, 13, 21, 34] ++ List.replicate 10 0) })
      (fun t => (t.lens .cl).take 10 == [7, 7, 6, 5, 4, 3, 2, 2, 2, 0]) = true := by decide
/-- R168. -/
theorem test_hbuild_order :
    (codeLengths .d ([5, 1, 1, 2, 3] ++ List.replicate 25 0)).take 6 = [1, 4, 4, 3, 2, 0] := by decide
/-- A state with code-length lengths in `LEN_CL`. -/
def withLens (lens : List Nat) : State :=
  { State.reset with
    arg0 := 2
    lenCL := State.reset.lenCL.writeRun 0
      ((lens ++ List.replicate (19 - lens.length) 0).map (BitVec.ofNat 3)) }
/-- R170: `010, 011, 100, 101, 110, 00, 1110, 1111`. -/
theorem test_hcanon :
    answers (exec .hcanon (withLens [3, 3, 3, 3, 3, 2, 4, 4]))
      (fun t => (List.range 9).map (t.codeAt .cl) == [2, 3, 4, 5, 6, 0, 14, 15, 0]) = true := by decide
theorem test_hcanon_over :
    answers (exec .hcanon (withLens [1, 1, 1]))
      (fun t => t.err == some .invalidHuffmanCode && (t.lens .cl).take 4 == [1, 1, 1, 0]) = true := by
  decide
/-- R174, R64: codeword `110` of length 3 is written `1, 1, 0`. -/
theorem test_hput :
    answers (exec .hput { withLens [1, 2, 3, 3] with
        arg1 := 2, codeCL := State.reset.codeCL.writeRun 0 [0, 2, 6, 7] })
      (fun t => t.wpos == 3 && t.obufAt 0 == 0x03) = true := by decide
theorem test_hput_unused :
    answers (exec .hput { withLens [1, 1] with arg1 := 2 })
      (fun t => t.err == some .invalidConfig) = true := by decide
/-- R195. -/
theorem test_hdbuild :
    answers (exec .hdbuild (withLens [2, 2, 2, 3, 3]))
      (fun t => [0, 1, 2, 3, 7, 127].map (t.dtblCL.entry .cl) ==
        [(0, 2), (2, 2), (1, 2), (3, 3), (4, 3), (4, 3)]) = true := by decide
theorem test_hdbuild_under :
    answers (exec .hdbuild (withLens [1, 2])) (fun t => t.err == some .invalidHuffmanCode) = true := by
  decide
/-- R199: 3, 3, 1, then `TruncatedInput`. -/
theorem test_hdsym :
    answers (exec .hdsym { load [0x9B] with
        arg0 := 2, rpos := 6, dtblCL := builtTable .cl ([2, 2, 2, 3, 3] ++ List.replicate 14 0) })
      (fun t => t.res0 == 1 && t.res1 == 2 && t.rpos == 8 &&
        answers (exec .hdsym t) (fun u => u.err == some .truncatedInput && u.rpos == 8)) = true := by
  decide
/-- R212: `abcXabcYabc`. -/
theorem test_mfind :
    answers (exec .mfind { load [97, 98, 99, 88, 97, 98, 99, 89, 97, 98, 99] with
        arg0 := 8, arg1 := 11 })
      (fun t => t.res0 == 3 && t.res1 == 4) = true := by decide
/-- R225: `abcabcabcd`, and under `filtered` the eight literals of `abcabcab`. -/
theorem test_tokenize :
    answers (exec .tokenize { load [97, 98, 99, 97, 98, 99, 97, 98, 99, 100] with arg1 := 10 })
      (fun t => t.ntok == 5 && t.tok.read 12 3 == 0x80060003 && t.tok.read 12 4 == 100) = true := by
  decide
theorem test_tokenize_filtered :
    answers (exec .tokenize { load [97, 98, 99, 97, 98, 99, 97, 98] with
        arg1 := 8, cfgStrategy := 1 })
      (fun t => t.ntok == 8 && t.tok.read 12 7 == 98) = true := by decide
/-- R258: `a`, chosen and stored. -/
theorem test_encblk :
    answers (exec .encblk { load [0x61] with arg1 := 1, arg2 := 1, arg3 := 1 })
      (fun t => t.res0 == 1 && t.res1 == 18 && t.wpos == 18 &&
        t.outputBytes == [0x4B, 0x04, 0x00]) = true := by decide
/-- R258: `a` stored, and the empty chunk as a dynamic block; R41: the tables are then unspecified. -/
theorem test_encblk_stored_dynamic :
    (answers (exec .encblk { load [0x61] with arg1 := 1, arg2 := 1, arg3 := 0 })
        (outIs [0x01, 0x01, 0x00, 0xFE, 0xFF, 0x61]) &&
      answers (exec .encblk { load [] with arg2 := 1, arg3 := 2, dtblD := .built [] })
        (fun t => t.wpos == 92 && !tableBuilt t.dtblD && t.outputBytes ==
          [0x05, 0xC1, 0x81, 0, 0, 0, 0, 0, 0x10, 0xFF, 0xD5, 0x08])) = true := by decide
/-- R252's examples of `CLSeq`. -/
theorem test_clSequence :
    (clSequence 10 (List.replicate 10 5) = [(5, 0), (16, 3), (16, 0)] ∧
      clSequence 9 (List.replicate 9 5) = [(5, 0), (16, 3), (5, 0), (5, 0)]) ∧
      clSequence 139 (List.replicate 139 0) = [(18, 127), (0, 0)] ∧
      clSequence 2 [0, 0] = [(0, 0), (0, 0)] ∧ clSequence 10 (List.replicate 10 0) = [(17, 7)] ∧
      clSequence 11 (List.replicate 11 0) = [(18, 0)] := by decide
/-- R289. -/
theorem test_decblk :
    answers (exec .decblk (load [0x4B, 0x84, 0x03, 0x00]))
      (fun t => outIs (List.replicate 10 0x61) t && t.rpos == 30 && t.res0 == 1 && t.res1 == 1) =
      true := by decide
theorem test_decblk_dynamic :
    answers (exec .decblk (load [0x3D, 0xC1, 0x21, 0x01, 0x00, 0x00, 0x00, 0x80, 0xA0, 0xAD, 0xFC,
        0x3F, 0x61, 0x13, 0x2C]))
      (fun t => outIs (List.replicate 10 0x61) t && t.rpos == 119 && t.res1 == 2) = true := by decide
/-- R308: the empty input, raw and at level 0. -/
theorem test_compress :
    answers (exec .compress (load [])) (outIs [0x03, 0x00]) = true := by decide
theorem test_compress_stored :
    answers (exec .compress { load [] with cfgLevel := 0 })
      (outIs [0x01, 0x00, 0x00, 0xFF, 0xFF]) = true := by decide
/-- R318. -/
theorem test_decompress :
    answers (exec .decompress (load [0x00, 0x00, 0x00, 0xFF, 0xFF, 0x03, 0x00]))
      (fun t => t.status == .done && t.olen == 0 && t.icons == 7) = true := by decide
theorem test_decompress_no_final :
    answers (exec .decompress (load [0x00, 0x00, 0x00, 0xFF, 0xFF]))
      (fun t => t.err == some .truncatedInput) = true := by decide
/-- R332: `abc`. -/
theorem test_adler32 :
    answers (exec .adler32 (load [0x61, 0x62, 0x63]))
      (fun t => t.res0 == 0x024D0127 && t.adler == 0x024D0127) = true := by decide
/-- R362. -/
theorem test_reservedCmd :
    answers (exec (.reservedCmd 0x00) State.reset)
      (fun t => t.status == .error && t.err == some .invalidConfig) = true := by decide
/-- R308, R318, R362: the framed forms of the empty stream. -/
theorem test_zcompress :
    answers (exec .zcompress (load [])) (outIs [0x78, 0x9C, 0x03, 0, 0, 0, 0, 1]) = true := by decide
theorem test_rawcompress :
    answers (exec .rawcompress { load [] with cfgFraming := 1 }) (outIs [0x03, 0x00]) = true := by
  decide
theorem test_zdecompress :
    answers (exec .zdecompress (load [0x78, 0x9C, 0x03, 0, 0, 0, 0, 1]))
      (fun t => t.status == .done && t.adler == 1 && t.icons == 8) = true := by decide
theorem test_zdecompress_checksum :
    answers (exec .zdecompress (load [0x78, 0x9C, 0x03, 0, 0, 0, 0, 0]))
      (fun t => t.err == some .checksumMismatch) = true := by decide
theorem test_rawdecompress :
    answers (exec .rawdecompress { load [0x03, 0x00] with cfgFraming := 1 })
      (fun t => t.status == .done && t.icons == 2) = true := by decide

/-! ### Stream elements -/

/-- A state inside `DECBLK` in a decode mode, with output bytes. -/
def inMode (p : Phase) (out : List Nat) : State :=
  { load [0, 0, 0, 0, 0, 0, 0, 0] with
    status := .busy, phase := p, wpos := 8 * out.length
    obuf := State.reset.obuf.writeRun 0 (out.map (BitVec.ofNat 8)) }
/-- The same inside a framed or raw `DECOMPRESS`, in its final block or not. -/
def inStream (p : Phase) (final : Bool) (framing : BitVec 32) (out : List Nat) : State :=
  { inMode p out with run := ⟨true, final, 1, 0⟩, cfgFraming := framing }

theorem test_blockHeaders :
    (answers (exec (.blockStored true) (inMode .blockHdr []))
        (fun t => t.phase == .storedLen && t.rpos == 3 && t.run.bfinal) &&
      answers (exec (.blockDynamic false) (inMode .blockHdr []))
        (fun t => t.phase == .dynHdr && t.run.btype == 2) &&
      answers (exec (.blockFixed true) (inMode .blockHdr []))
        (fun t => t.phase == .data .fixed && t.lenAt .ll 255 == 9 && t.lenAt .d 31 == 5) &&
      answers (exec (.blockReserved false) (inMode .blockHdr []))
        (fun t => t.err == some .invalidBlockType && t.phase == .idle)) = true := by decide
theorem test_stored :
    (answers (exec (.storedLen 1 0xFFFE) { inMode .storedLen [] with rpos := 3 })
        (fun t => t.phase == .storedData 1 && t.rpos == 40) &&
      answers (exec (.storedLen 1 0xFFFF) (inMode .storedLen []))
        (fun t => t.err == some .invalidStoredLength) &&
      answers (exec (.storedData [0x61]) (inMode (.storedData 1) [0x60]))
        (fun t => t.status == .done && outIs [0x60, 0x61] t && t.rpos == 8)) = true := by decide
theorem test_literals :
    (answers (exec (.fixedLit0To143 0x61) (inMode (.data .fixed) [1]))
        (fun t => outIs [1, 0x61] t && t.rpos == 8) &&
      answers (exec (.fixedLit144To255 0xFF) (inMode (.data .fixed) [1]))
        (fun t => outIs [1, 0xFF] t && t.rpos == 9) &&
      answers (exec (.dynLit 0x61 1) (inMode (.data .dynamic) [1]))
        (fun t => outIs [1, 0x61] t && t.rpos == 1)) = true := by decide
theorem test_endOfBlock :
    (answers (exec .fixedEob (inMode (.data .fixed) []))
        (fun t => t.status == .done && t.rpos == 7 && t.phase == .idle) &&
      answers (exec (.dynEob 2) (inStream (.data .dynamic) false 0 []))
        (fun t => t.status == .busy && t.rpos == 2 && t.phase == .blockHdr) &&
      answers (exec (.dynEob 2) (inStream (.data .dynamic) true 0 []))
        (fun t => t.status == .done && t.rpos == 8 && t.icons == 1) &&
      answers (exec .fixedEob (inStream (.data .fixed) true 1 []))
        (fun t => t.phase == .zlibAdler && t.rpos == 8)) = true := by decide
theorem test_matchCodewords :
    (answers (exec (.fixedLen257To279 260) (inMode (.data .fixed) []))
        (fun t => t.phase == .lenExtra .fixed 260 && t.rpos == 7) &&
      answers (exec (.fixedLen280To285 285) (inMode (.data .fixed) []))
        (fun t => t.phase == .lenExtra .fixed 285 && t.rpos == 8) &&
      answers (exec (.dynLen 263 2) (inMode (.data .dynamic) []))
        (fun t => t.phase == .lenExtra .dynamic 263 && t.rpos == 2) &&
      answers (exec (.fixedDist 2) (inMode (.distCode .fixed 6) []))
        (fun t => t.phase == .distExtra .fixed 6 2 && t.rpos == 5) &&
      answers (exec (.dynDist 1 1) (inMode (.distCode .dynamic 9) []))
        (fun t => t.phase == .distExtra .dynamic 9 1 && t.rpos == 1)) = true := by decide
/-- R283, R284. -/
theorem test_invalidSymbols :
    (answers (exec (.fixedLL286To287 286) (inMode (.data .fixed) []))
        (fun t => t.err == some .invalidHuffmanCode) &&
      answers (exec .dist30 (inMode (.distExtra .fixed 3 30) []))
        (fun t => t.err == some .invalidHuffmanCode) &&
      answers (exec .dist31 (inMode (.distExtra .fixed 3 31) []))
        (fun t => t.err == some .invalidHuffmanCode)) = true := by decide
/-- R106: the least and the greatest length of every symbol. -/
theorem test_lengths :
    ([
      (257, .len257, 3, 0),
      (258, .len258, 4, 0),
      (259, .len259, 5, 0),
      (260, .len260, 6, 0),
      (261, .len261, 7, 0),
      (262, .len262, 8, 0),
      (263, .len263, 9, 0),
      (264, .len264, 10, 0),
      (265, .len265 1, 12, 1),
      (266, .len266 1, 14, 1),
      (267, .len267 1, 16, 1),
      (268, .len268 1, 18, 1),
      (269, .len269 3, 22, 2),
      (270, .len270 3, 26, 2),
      (271, .len271 3, 30, 2),
      (272, .len272 3, 34, 2),
      (273, .len273 7, 42, 3),
      (274, .len274 7, 50, 3),
      (275, .len275 7, 58, 3),
      (276, .len276 7, 66, 3),
      (277, .len277 15, 82, 4),
      (278, .len278 15, 98, 4),
      (279, .len279 15, 114, 4),
      (280, .len280 15, 130, 4),
      (281, .len281 31, 162, 5),
      (282, .len282 31, 194, 5),
      (283, .len283 31, 226, 5),
      (284, .len284 31, 258, 5),
      (285, .len285, 258, 0)] : List (Nat × Instr × Nat × Nat)).all (fun w =>
      answers (exec w.2.1 (inMode (.lenExtra .fixed w.1) []))
        (fun t => t.phase == .distCode .fixed w.2.2.1 && t.rpos == w.2.2.2)) = true := by decide
/-- R107, R285: the distance of every symbol at its greatest extra value, seen in the window check: one
byte less of output is not enough. -/
theorem test_distances :
    ([
      (0, .dist0, 1),
      (1, .dist1, 2),
      (2, .dist2, 3),
      (3, .dist3, 4),
      (4, .dist4 1, 6),
      (5, .dist5 1, 8),
      (6, .dist6 3, 12),
      (7, .dist7 3, 16),
      (8, .dist8 7, 24),
      (9, .dist9 7, 32),
      (10, .dist10 15, 48),
      (11, .dist11 15, 64),
      (12, .dist12 31, 96),
      (13, .dist13 31, 128),
      (14, .dist14 63, 192),
      (15, .dist15 63, 256),
      (16, .dist16 127, 384),
      (17, .dist17 127, 512),
      (18, .dist18 255, 768),
      (19, .dist19 255, 1024),
      (20, .dist20 511, 1536),
      (21, .dist21 511, 2048),
      (22, .dist22 1023, 3072),
      (23, .dist23 1023, 4096),
      (24, .dist24 2047, 6144),
      (25, .dist25 2047, 8192),
      (26, .dist26 4095, 12288),
      (27, .dist27 4095, 16384),
      (28, .dist28 8191, 24576),
      (29, .dist29 8191, 32768)] : List (Nat × Instr × Nat)).all (fun w =>
      answers (exec w.2.1 { inMode (.distExtra .fixed 0 w.1) [] with wpos := 8 * w.2.2 })
          (fun t => t.phase == .data .fixed && t.status == .busy) &&
        answers (exec w.2.1 { inMode (.distExtra .fixed 0 w.1) [] with wpos := 8 * w.2.2 - 8 })
          (fun t => t.err == some .windowSizeExceeded)) = true := by decide
/-- R285: with output `ab`, `MATCH 5,2` appends `ababa`. -/
theorem test_copy :
    answers (exec .dist1 (inMode (.distExtra .fixed 5 1) [0x61, 0x62]))
      (outIs [0x61, 0x62, 0x61, 0x62, 0x61, 0x62, 0x61]) = true := by decide
theorem test_dynHdr :
    (answers (exec (.dynHdr 29 29 15) (inMode .dynHdr []))
        (fun t => t.phase == .dynClLen 286 30 19 0 && t.rpos == 14) &&
      answers (exec (.dynHdr 30 0 0) (inMode .dynHdr []))
        (fun t => t.err == some .invalidHuffmanCode)) = true := by decide
theorem test_dynClLen :
    (answers (exec (.dynClLen 2) (inMode (.dynClLen 264 2 18 1) []))
        (fun t => t.phase == .dynClLen 264 2 18 2 && t.lenAt .cl 17 == 2) &&
      answers (exec (.dynClLen 1)
          { inMode (.dynClLen 264 2 4 3) [] with lenCL := (withLens [0, 1]).lenCL })
        (fun t => t.phase == .dynLens 264 2 [] && t.rpos == 3)) = true := by decide
/-- R109, R278: what every code-length symbol appends to `[5]`. -/
theorem test_codeLengths :
    ([
      (.cl0 4, [0]),
      (.cl1 4, [1]),
      (.cl2 4, [2]),
      (.cl3 4, [3]),
      (.cl4 4, [4]),
      (.cl5 4, [5]),
      (.cl6 4, [6]),
      (.cl7 4, [7]),
      (.cl8 4, [8]),
      (.cl9 4, [9]),
      (.cl10 4, [10]),
      (.cl11 4, [11]),
      (.cl12 4, [12]),
      (.cl13 4, [13]),
      (.cl14 4, [14]),
      (.cl15 4, [15]),
      (.cl16 4 3, List.replicate 6 5),
      (.cl17 4 7, List.replicate 10 0),
      (.cl18 4 127, List.replicate 138 0)] : List (Instr × List Nat)).all (fun w =>
      answers (exec w.1 (inMode (.dynLens 286 30 [5]) []))
        (fun t => t.phase == .dynLens 286 30 (5 :: w.2))) = true := by decide
theorem test_codeLength_first :
    answers (exec (.cl16 4 0) (inMode (.dynLens 286 30 []) []))
      (fun t => t.err == some .invalidHuffmanCode) = true := by decide
/-- R335. -/
theorem test_zlibHdr :
    ([(0x78, 0x9C, true), (0x78, 0x9D, false), (0x79, 0x94, false), (0x88, 0x1C, false),
        (0x78, 0xBB, false), (0x08, 0x1D, true)] : List (BitVec 8 × BitVec 8 × Bool)).all (fun w =>
      answers (exec (.zlibHdr w.1 w.2.1) (inStream .zlibHdr false 1 []))
        (fun t => if w.2.2 then t.phase == .blockHdr && t.rpos == 16
          else t.err == some .invalidHeader)) = true := by decide
theorem test_zlibAdler :
    (answers (exec (.zlibAdler 0x00620062) (inStream .zlibAdler true 1 [0x61]))
        (fun t => t.status == .done && t.icons == 4 && t.adler == 0x00620062) &&
      answers (exec (.zlibAdler 0x00620063) (inStream .zlibAdler true 1 [0x61]))
        (fun t => t.err == some .checksumMismatch)) = true := by decide

/-! ### The statements' hypotheses are met -/

/-- A state between commands whose host has one `ALIGNR` pending. -/
def pendingAlign : State := { load [0x03] with rpos := 3, host := [.write 0 0 0x14] }

theorem witness_StepKeepsInvariant :
    pendingAlign.inv = true ∧ (∃ t, step pendingAlign = .next t) ∧
      (inMode .blockHdr []).inv = true ∧ ∃ t, step (inMode .blockHdr []) = .next t :=
  ⟨by decide, ⟨_, rfl⟩, by decide, ⟨_, rfl⟩⟩
theorem witness_StepKeepsDecodeTables :
    pendingAlign.inv = true ∧ ctxOk pendingAlign.ctx = true ∧ pendingAlign.tablesFromLens ∧
      (∃ t, step pendingAlign = .next t) ∧
      (inMode .blockHdr []).inv = true ∧ ctxOk (inMode .blockHdr []).ctx = true ∧
      (inMode .blockHdr []).tablesFromLens ∧ ∃ t, step (inMode .blockHdr []) = .next t :=
  ⟨by decide, by decide, ⟨⟨nofun, nofun, nofun⟩, trivial⟩, ⟨_, rfl⟩, by decide, by decide,
    ⟨⟨nofun, nofun, nofun⟩, trivial⟩, ⟨_, rfl⟩⟩
/-- A state at a dynamic block's code lengths, with the code-length code of `LEN_CL` loaded. -/
def lensState : State :=
  { inMode (.dynLens 257 1 []) [] with
    lenCL := (withLens [1, 1]).lenCL, dtblCL := builtTable .cl ((withLens [1, 1]).lens .cl) }
/-- The clause about a mode that reads a table, at the code lengths. -/
theorem witness_StepKeepsDecodeTables_lens :
    lensState.inv = true ∧ lensState.tablesFromLens ∧ ∃ t, step lensState = .next t :=
  ⟨by decide, ⟨⟨nofun, nofun, fun _ => ⟨(withLens [1, 1]).lens .cl, by decide, by decide, by decide,
    rfl⟩⟩, rfl⟩, ⟨_, rfl⟩⟩
theorem witness_StepKeepsReadCursor :
    pendingAlign.inv = true ∧ ctxOk pendingAlign.ctx = true ∧
      pendingAlign.rpos ≤ 8 * pendingAlign.ilen ∧
      ∃ t, step pendingAlign = .next t ∧ t.ilen = pendingAlign.ilen :=
  ⟨by decide, by decide, by decide, _, rfl, rfl⟩
theorem witness_StepRunsElement :
    (inMode .blockHdr []).phase ≠ .idle ∧
      decodeElem (inMode .blockHdr []).ctx (inMode .blockHdr []).streamBit
        (inMode .blockHdr []).remaining = .ok (.blockStored false, 3) ∧
      decodeElem { inMode .blockHdr [] with ilen := 0 }.ctx
        { inMode .blockHdr [] with ilen := 0 }.streamBit
        { inMode .blockHdr [] with ilen := 0 }.remaining = .error (.raises .truncatedInput) := by
  decide
theorem witness_StepRunsCommand :
    pendingAlign.phase = .idle ∧ pendingAlign.status ≠ .busy ∧
      decodeHost pendingAlign.host = some (.alignr, []) ∧ State.reset.host = [] ∧
      decodeHost [.write 0 7 5, .write 0 0 0x14] = none ∧ decodeHost [.read 0 0] = none := by decide
theorem witness_PseudoCommands :
    ∃ u, hostAccess (.write 0 6 1) { State.reset with host := [.write 0 0 2] } = .next u ∧
      State.reset.phase = .idle ∧ State.reset.status ≠ .busy := ⟨_, rfl, by decide, by decide⟩
theorem witness_HostWriteThenRead :
    (∃ t, State.reset.hostWrite 6 287 31 = .ok t ∧ t.hostRead 6 287 = .ok 15) ∧
      (∃ t, State.reset.hostWrite 0 19 (2 ^ 32 + 5) = .ok t ∧ t.hostRead 0 19 = .ok 5) ∧
      State.reset.hostRead 0 13 = .ok 1 ∧ (spaceSize 3 = some 286 ∧ spaceSize 8 = some 19) ∧
      (∃ t, State.reset.hostWrite 3 285 1 = .ok t) ∧ (∃ t, State.reset.hostWrite 8 18 9 = .ok t) ∧
      (∃ t, State.reset.hostWrite 0 3 9 = .ok t) ∧ (∃ t, State.reset.hostWrite 1 70000 9 = .ok t) ∧
      ∃ v, State.reset.hostRead 0 23 = .ok v :=
  ⟨⟨_, rfl, by decide⟩, ⟨_, rfl, by decide⟩, by decide, by decide, ⟨_, rfl⟩, ⟨_, rfl⟩, ⟨_, rfl⟩,
    ⟨_, rfl⟩, ⟨_, rfl⟩⟩
/-- R34, R351 as the host reads them: the entry of symbol 3 of R195's table, and an error's code. -/
theorem witness_HostReads :
    (withLens [2, 2, 2, 3, 3]).hostRead 0 2 = .ok 0 ∧
      { State.reset with status := .error, err := some .checksumMismatch }.hostRead 0 2 = .ok 8 ∧
      { State.reset with dtblCL := builtTable .cl ([2, 2, 2, 3, 3] ++ List.replicate 14 0) }.hostRead
        15 3 = .ok 0x33 ∧
      (127 < 2 ^ Alphabet.cl.maxBits ∧ ((builtTable .cl ([2, 2, 2, 3, 3] ++
        List.replicate 14 0)).entry .cl 127).2 < 16) := by decide
theorem witness_HostAccessRefused :
    State.reset.hostRead 0 24 = .error .reservedRegister ∧
      State.reset.hostWrite 0 14 1 = .error .reservedRegister ∧
      State.reset.hostRead 16 0 = .error .noSuchSpace ∧
      (spaceSize 15 = some 128 ∧ State.reset.hostRead 15 128 = .error .indexOutOfRange) ∧
      (spaceSize 8 = some 19 ∧ State.reset.hostWrite 8 19 1 = .error .indexOutOfRange) ∧
      State.reset.hostWrite 0 13 1 = .error .readOnlyItem ∧
      State.reset.hostWrite 9 0 1 = .error .readOnlyItem ∧
      { pendingAlign with status := .busy }.phase = .idle ∧
      { pendingAlign with status := .busy }.host ≠ [] := by
  refine ⟨rfl, rfl, rfl, ⟨rfl, rfl⟩, ⟨rfl, rfl⟩, rfl, rfl, rfl, ?_⟩
  decide
/-- The context of a dynamic block's code lengths. -/
def lensCtx : StreamCtx := ⟨.dynLens 264 2 [5], 0, .built [], .built [], builtTable .cl clLens⟩
theorem witness_ElementDecodeEncode :
    ctxOk lensCtx = true ∧ lensCtx.phase.admits (.cl17 5 6) = true ∧
      (Instr.cl17 5 6).wellFormed = true ∧
      (∀ n y nl nd, Instr.cl17 5 6 = .cl16 n y → lensCtx.phase ≠ .dynLens nl nd []) ∧
      encodeElem lensCtx (.cl17 5 6) = some [x, x, x, x, o, o, x, x] ∧
      ∀ k (h : k < [x, x, x, x, o, o, x, x].length),
        bitsFn [x, x, x, x, o, o, x, x] k = [x, x, x, x, o, o, x, x][k] := by
  refine ⟨by decide, by decide, by decide, ?_, by decide, by decide⟩
  intro n y nl nd h
  cases h
theorem witness_CommandDecodeEncode :
    (Instr.reservedCmd 0xFF).wellFormed = true ∧
      encodeHost (.reservedCmd 0xFF) = some [.write 0 0 255] ∧
      encodeHost .zdecompress = some [.write 0 6 1, .write 0 0 2] := by decide
theorem witness_ConfigurationChecks :
    { State.reset with cfgWbits := 8 }.decodeConfigOk = false ∧
      { State.reset with cfgFraming := 2 }.decodeConfigOk = false ∧
      { State.reset with cfgLevel := 10 }.configOk = false ∧
      { State.reset with cfgLevel := 0xFFFFFFFE }.configOk = false ∧
      { State.reset with cfgLevel := 77 }.decodeConfigOk = true ∧
      { State.reset with wpos := 1 }.wpos % 8 ≠ 0 := by decide
theorem witness_InvalidConfigChangesOnlyFlags :
    Instr.wrbits.opcode.isSome = true ∧
      ∃ t, exec .wrbits { State.reset with arg1 := 33 } = .next t ∧ t.err = some .invalidConfig :=
  ⟨by decide, _, rfl, rfl⟩
theorem witness_ErrorMatrix :
    (encodeHost .rdbits).isSome = true ∧
      ∃ t, exec .rdbits { State.reset with arg0 := 1 } = .next t := ⟨by decide, _, rfl⟩
theorem witness_WrbitsIsTheWriteLoop :
    32 < { State.reset with arg1 := 33 }.arg1.toNat ∧
      { State.reset with arg1 := 32 }.arg1.toNat ≤ 32 ∧ State.reset.obuf.wf = true := by decide
theorem witness_WrittenBits :
    (inMode .blockHdr [5]).wpos = 8 ∧
      ({ inMode .blockHdr [5] with wpos := 3 }.obufAt ({ inMode .blockHdr [5] with wpos := 3 }.wpos / 8)).toNat
        < 2 ^ ({ inMode .blockHdr [5] with wpos := 3 }.wpos % 8) := by decide
theorem witness_WriteReadDuality :
    State.reset.wpos = 0 ∧ (load [0xFD]).rpos = 0 ∧
      (load [0xFD]).ilen =
        (([(5, 3), (31, 5)].foldl (fun t f => t.writeBits f.1 f.2) State.reset).alignW).olen ∧
      ∀ i < (load [0xFD]).ilen, (load [0xFD]).ibufAt i =
        (([(5, 3), (31, 5)].foldl (fun t f => t.writeBits f.1 f.2) State.reset).alignW).obufAt i := by
  decide
theorem witness_RdbitsResult :
    32 < { State.reset with arg0 := 33 }.arg0.toNat ∧
      { load [0xFD] with arg0 := 9 }.remaining < { load [0xFD] with arg0 := 9 }.arg0.toNat ∧
      { load [0xFD] with arg0 := 8 }.arg0.toNat ≤ { load [0xFD] with arg0 := 8 }.remaining := by decide
theorem witness_HbuildResult :
    2 < { State.reset with arg0 := 3 }.arg0.toNat ∧
      [alphabetOf 0, alphabetOf 1, alphabetOf 2] = [some .ll, some .d, some .cl] := by decide
theorem witness_HuffmanLengthsComplete :
    (List.replicate 19 0).length = Alphabet.cl.nsym ∧
      codeLengths .cl (List.replicate 19 0) = [1, 1] ++ List.replicate 17 0 := by decide
theorem witness_HuffmanLengthsOrdered :
    (9 :: 9 :: 1 :: List.replicate 16 4).length = Alphabet.cl.nsym ∧
      0 < (forceTwo (9 :: 9 :: 1 :: List.replicate 16 4)).getD 18 0 ∧
      (forceTwo (9 :: 9 :: 1 :: List.replicate 16 4)).getD 18 0 <
        (forceTwo (9 :: 9 :: 1 :: List.replicate 16 4)).getD 0 0 ∧
      (forceTwo (9 :: 9 :: 1 :: List.replicate 16 4)).getD 0 0 =
        (forceTwo (9 :: 9 :: 1 :: List.replicate 16 4)).getD 1 0 := by decide
theorem witness_HcanonResult :
    alphabetOf (withLens [1, 1, 1]).arg0 = some .cl ∧
      2 ^ 7 < kraftSum 7 ((withLens [1, 1, 1]).lens .cl) ∧
      kraftSum 7 ((withLens [1, 1]).lens .cl) = 2 ^ 7 ∧
      2 < { State.reset with arg0 := 3 }.arg0.toNat := by decide
theorem witness_CanonicalCodes :
    (∀ n ∈ [3, 3, 3, 3, 3, 2, 4, 4, 0], n ≤ 4) ∧
      kraftSum 4 [3, 3, 3, 3, 3, 2, 4, 4, 0] ≤ 2 ^ 4 ∧
      canonicalCodes 4 [3, 3, 3, 3, 3, 2, 4, 4, 0] = [2, 3, 4, 5, 6, 0, 14, 15, 0] := by decide
theorem witness_HputResult :
    2 < { State.reset with arg0 := 3 }.arg0.toNat ∧
      alphabetOf (withLens [1, 2, 3, 3]).arg0 = some .cl ∧
      Alphabet.cl.nlen ≤ { withLens [1, 1] with arg1 := 19 }.arg1.toNat ∧
      { withLens [1, 1] with arg1 := 18 }.lenAt .cl 18 = 0 ∧
      0 < { withLens [1, 1] with arg1 := 1 }.lenAt .cl 1 ∧ (withLens [1, 1]).obuf.wf = true := by decide
theorem witness_HdbuildResult :
    2 < { State.reset with arg0 := 3 }.arg0.toNat ∧
      alphabetOf (withLens [2, 2, 2, 3, 3]).arg0 = some .cl ∧
      kraftSum 7 ((withLens [2, 2, 2, 3, 3]).lens .cl) = 2 ^ 7 ∧
      kraftSum 7 ((withLens [1, 2]).lens .cl) ≠ 2 ^ 7 ∧ codeAccepted .d (1 :: List.replicate 31 0) := by
  decide
theorem witness_BuiltTableEntries :
    ([2, 2, 2, 3, 3] ++ List.replicate 14 0).length = Alphabet.cl.nlen ∧
      (∀ n ∈ [2, 2, 2, 3, 3] ++ List.replicate 14 0, n ≤ Alphabet.cl.maxBits) ∧
      codeAccepted .cl ([2, 2, 2, 3, 3] ++ List.replicate 14 0) = true ∧
      (builtTable .d (1 :: List.replicate 31 0)).entry .d 1 = (0, 0) := by decide
/-- `HDSYM` on the example table of R195, and on the distance code of one codeword. -/
def symState (bs : List Nat) : State :=
  { load bs with
    arg0 := 2, dtblCL := builtTable .cl ([2, 2, 2, 3, 3] ++ List.replicate 14 0)
    dtblD := builtTable .d (1 :: List.replicate 31 0) }
theorem witness_HdsymResult :
    2 < { State.reset with arg0 := 3 }.arg0.toNat ∧ alphabetOf (symState [0x9B]).arg0 = some .cl ∧
      (((symState [0x9B]).dtbl .cl).entry .cl
        (fieldAt (peekBit (symState [0x9B]).streamBit (symState [0x9B]).remaining) 0 7)).2 = 3 ∧
      3 ≤ (symState [0x9B]).remaining ∧
      (((symState []).dtbl .cl).entry .cl
        (fieldAt (peekBit (symState []).streamBit (symState []).remaining) 0 7)).2 = 2 ∧
      (symState []).remaining < 2 ∧
      (((symState [1]).dtbl .d).entry .d
        (fieldAt (peekBit (symState [1]).streamBit (symState [1]).remaining) 0 15)).2 = 0 := by decide
/-- `abcXabcY` with operands for `MFIND`, `TOKENIZE`, `ENCBLK`. -/
def searchState (start endp : BitVec 32) : State :=
  { load [97, 98, 99, 88, 97, 98, 99, 89] with arg0 := start, arg1 := endp, arg2 := 1, arg3 := 1 }
theorem witness_MfindResult :
    (searchState 4 8).configOk = true ∧ (searchState 4 8).arg1.toNat ≤ (searchState 4 8).ilen ∧
      findMatch (searchState 4 8).matchConfig (searchState 4 8).inputBytes 4 8 = some ⟨3, 4⟩ ∧
      findMatch (searchState 0 8).matchConfig (searchState 0 8).inputBytes 0 8 = none ∧
      (searchState 4 9).ilen < (searchState 4 9).arg1.toNat ∧
      { searchState 4 8 with cfgStrategy := 5 }.configOk = false := by decide
theorem witness_FindMatchSound :
    (searchState 4 8).matchConfig.window ≤ 32768 ∧ 8 ≤ (searchState 4 8).inputBytes.length ∧
      findMatch (searchState 4 8).matchConfig (searchState 4 8).inputBytes 4 8 = some ⟨3, 4⟩ ∧
      (searchState 4 8).matchConfig.level = 6 ∧ (searchState 4 8).matchConfig.strategy = 0 ∧
      isExamined (searchState 4 8).matchConfig (searchState 4 8).inputBytes 4 0 = true ∧
      isMatchLen (searchState 4 8).inputBytes 0 4 4 3 = true ∧
      isExamined ⟨9, 1, 32768⟩ (searchState 4 8).inputBytes 4 0 = true ∧
      findMatch ⟨9, 1, 32768⟩ (searchState 4 8).inputBytes 4 8 = none ∧
      findMatch ⟨9, 0, 32768⟩ (searchState 4 8).inputBytes 4 6 = none := by decide
theorem witness_TokenizeResult :
    (searchState 0 8).configOk = true ∧ chunkRangeOk (searchState 0 8) = true ∧
      chunkRangeOk (searchState 5 4) = false ∧
      (tokenizeChunk (searchState 0 8).matchConfig (searchState 0 8).inputBytes 0 8).length = 6 := by
  decide
theorem witness_TokenizeReproduces :
    (searchState 0 8).matchConfig.window ≤ 32768 ∧ 8 ≤ (searchState 0 8).inputBytes.length ∧
      expandTokens [] (tokenizeChunk (searchState 0 8).matchConfig (searchState 0 8).inputBytes 0 8) =
        (searchState 0 8).inputBytes := by decide
theorem witness_EncblkResult :
    (searchState 0 8).configOk = true ∧ chunkRangeOk (searchState 0 8) = true ∧
      (searchState 0 8).arg2.toNat ≤ 1 ∧ (searchState 0 8).arg3.toNat ≤ 3 ∧
      { searchState 0 8 with cfgLevel := 0, arg3 := 3 }.level = 0 ∧
      1 < { searchState 0 8 with arg2 := 2 }.arg2.toNat ∧
      { searchState 0 8 with wpos := 8 }.wpos % 8 = 0 := by decide
theorem witness_BlockHasLeastSize :
    candidateTypes (searchState 0 8) = [0, 1, 2] ∧
      candidateTypes { searchState 0 8 with cfgLevel := 0 } = [0] ∧
      candidateTypes { searchState 0 8 with cfgStrategy := 4 } = [1] := by decide
theorem witness_CompressResult :
    (load []).configOk = true ∧ { load [] with cfgFraming := 1 }.configOk = true ∧
      { load [] with cfgFraming := 0 }.configOk = true := by decide
theorem witness_CompressIsDeterministic :
    (load []).configOk = true ∧ (∃ t, exec .compress (load []) = .next t) ∧
      ∃ v, exec .compress { load [] with wpos := 9, arg0 := 5 } = .next v :=
  ⟨by decide, ⟨_, rfl⟩, ⟨_, rfl⟩⟩
theorem witness_StoredCompressBytes :
    { load [1, 2] with cfgLevel := 0 }.configOk = true ∧ { load [1, 2] with cfgLevel := 0 }.level = 0 ∧
      { load [1, 2] with cfgLevel := 0 }.cfgFraming = 0 ∧
      { load [1, 2] with cfgLevel := 0 }.ilen ≤ 32768 := by decide
/-- The output of a command as the next input. -/
def outputAsInput (s : State) : State := load (s.outputBytes.map (·.toNat))
theorem witness_CompressRoundTrip :
    (load []).configOk = true ∧ answers (exec .compress (load [])) (fun t =>
      (outputAsInput t).ilen == t.olen && (outputAsInput t).cfgWbits == t.cfgWbits &&
        (outputAsInput t).cfgFraming == t.cfgFraming) = true ∧
    answers (exec .compress { load [1, 2] with cfgLevel := 0 }) (fun t =>
      (outputAsInput t).ilen == t.olen && (outputAsInput t).cfgWbits == t.cfgWbits &&
        (outputAsInput t).cfgFraming == t.cfgFraming &&
        (List.range t.olen).all fun i => (outputAsInput t).ibufAt i == t.obufAt i) = true := by decide
theorem witness_FixedBlockRoundTrip :
    answers (exec .encblk (searchState 0 8)) (fun t =>
      (outputAsInput t).rpos == (searchState 0 8).wpos && decide (t.wpos ≤ 8 * (outputAsInput t).ilen) &&
        (outputAsInput t).wpos == 0 &&
        (List.range t.wpos).all fun p => ((outputAsInput t).ibufAt (p / 8)).getLsbD (p % 8) ==
          (t.obufAt (p / 8)).getLsbD (p % 8)) = true := by decide
theorem witness_BlockRoundTrip :
    { load [] with arg2 := 1, arg3 := 2 }.configOk = true ∧
      chunkRangeOk { load [] with arg2 := 1, arg3 := 2 } = true ∧
      answers (exec .encblk { load [] with arg2 := 1, arg3 := 2 }) (fun t =>
        decide (t.wpos ≤ 8 * (outputAsInput t).ilen) && (outputAsInput t).rpos == 0 &&
          (List.range t.wpos).all fun p => ((outputAsInput t).ibufAt (p / 8)).getLsbD (p % 8) ==
            (t.obufAt (p / 8)).getLsbD (p % 8)) = true := by decide
theorem witness_DecblkStoredBlock :
    ((load [1, 1, 0, 0xFE, 0xFF, 0x61]).wpos % 8 = 0 ∧
      48 ≤ (load [1, 1, 0, 0xFE, 0xFF, 0x61]).remaining) ∧
      (List.range 48).map (load [1, 1, 0, 0xFE, 0xFF, 0x61]).streamBit =
        [true, false, false] ++ List.replicate 5 false ++ bitsOf 1 16 ++ bitsOf (65535 - 1) 16 ++
          [0x61].flatMap fun b : Byte => bitsOf b.toNat 8 := by decide
theorem witness_DecompressStoredStream :
    { load [] with cfgFraming := 1 }.decodeConfigOk = true ∧ (load []).decodeConfigOk = true ∧
      zlibHeaderOk 0x78 0x9C = true ∧ adlerOf [0x61] = 0x00620062 ∧
      (load [0x78, 0x9C, 1, 1, 0, 0xFE, 0xFF, 0x61, 0, 0x62, 0, 0x62, 9]).inputBytes =
        [0x78, 0x9C] ++ [1, 1, 0, 0xFE, 0xFF] ++ [0x61] ++ [0, 0x62, 0, 0x62] ++ [9] := by decide
theorem witness_DecblkFrame :
    ((load [3, 0]).cfgWbits.toNat = 15 ∧ (load [3, 0]).wpos % 8 = 0) ∧
      answers (exec .decblk (load [3, 0])) (fun t => t.status == .done) = true ∧
      answers (exec .decblk (load [3])) (fun t => t.status == .error) = true := by decide
theorem witness_DecodeCommandIsItsElements :
    (load [3, 0]).wbitsOk = true ∧ (load [3, 0]).decodeConfigOk = true ∧
      answers (runSteps 2 (load [3, 0]).begin.startBlock) (fun t => t.phase == .idle) = true := by decide
theorem witness_BlockHeaders : (inMode .blockHdr []).phase = .blockHdr := by decide
theorem witness_StoredElements :
    (inMode .storedLen []).phase = .storedLen ∧ (0xFFFE : BitVec 16) = 1 ^^^ 0xFFFF ∧
      (0xFFFF : BitVec 16) ≠ 1 ^^^ 0xFFFF ∧
      (inMode (.storedData 0) []).phase = .storedData ([] : List Byte).length ∧
      (inMode (.storedData 0) []).wpos % 8 = 0 := by decide
theorem witness_LiteralElements :
    (inMode (.data .fixed) [1]).phase = .data .fixed ∧
      (inMode (.data .dynamic) [1]).phase = .data .dynamic ∧ (inMode (.data .fixed) [1]).wpos % 8 = 0 := by
  decide
theorem witness_EndOfBlockElements :
    (inMode (.data .fixed) []).phase = .data .fixed ∧ (inMode (.data .fixed) []).run.whole = false ∧
      (inStream (.data .dynamic) false 0 []).phase = .data .dynamic ∧
      (inStream (.data .dynamic) false 0 []).run.whole = true ∧
      (inStream (.data .dynamic) false 0 []).run.bfinal = false ∧
      (inStream (.data .dynamic) true 1 []).run.bfinal = true ∧
      (inStream (.data .dynamic) true 1 []).cfgFraming = 1 ∧
      (inStream (.data .dynamic) true 0 []).cfgFraming ≠ 1 := by decide
theorem witness_MatchCodewords :
    (inMode (.data .dynamic) []).phase = .data .dynamic ∧
      (inMode (.distCode .fixed 258) []).phase = .distCode .fixed 258 := by decide
theorem witness_InvalidSymbols :
    (inMode (.data .fixed) []).phase = .data .fixed ∧
      (inMode (.distExtra .fixed 3 30) []).phase = .distExtra .fixed 3 30 ∧
      (inMode (.distExtra .fixed 3 31) []).phase = .distExtra .fixed 3 31 ∧
      (inStream (.data .fixed) false 0 []).run.whole = true ∧
      (inStream (.data .fixed) false 0 []).cfgFraming ≠ 1 ∧
      { inMode (.data .fixed) [7, 8] with run := ⟨false, false, 1, 2⟩ }.run.whole = false ∧
      findCell { inMode (.data .fixed) [7, 8] with run := ⟨false, false, 1, 2⟩ }.obuf.cells 1 = some 8 :=
  by decide
theorem witness_LengthSymbols :
    Instr.len257.lengthFields = some (0, 0) ∧ (Instr.len284 31).lengthFields = some (27, 31) ∧
      Instr.len285.lengthFields = some (28, 0) ∧
      (inMode (.lenExtra .fixed 285) []).phase = .lenExtra .fixed (257 + 28) := by decide
theorem witness_DistanceSymbols :
    Instr.dist1.distFields = some (1, 0) ∧ (Instr.dist29 8191).distFields = some (29, 8191) ∧
      (inMode (.distExtra .fixed 5 1) [1, 2]).phase = .distExtra .fixed 5 1 ∧
      (distBase 1 + 0 ≤ (inMode (.distExtra .fixed 5 1) [1, 2]).window ∧
        distBase 1 + 0 ≤ (inMode (.distExtra .fixed 5 1) [1, 2]).olen) ∧
      (inMode (.distExtra .fixed 5 1) [1]).olen < distBase 1 + 0 ∧
      { inMode (.distExtra .fixed 5 29) [1] with cfgWbits := 9 }.window < distBase 29 + 0 := by decide
theorem witness_DynamicHeader :
    (inMode .dynHdr []).phase = .dynHdr ∧ 286 < (30 : BitVec 5).toNat + 257 ∧
      (29 : BitVec 5).toNat + 257 ≤ 286 ∧ 30 < (30 : BitVec 5).toNat + 1 ∧
      (29 : BitVec 5).toNat + 1 ≤ 30 ∧
      (inMode (.dynClLen 257 1 4 2) []).phase = .dynClLen 257 1 4 2 ∧ 2 + 1 < 4 ∧ 4 ≤ 3 + 1 ∧
      kraftSum 7 (({ withLens [0, 1] with lenCL := (withLens [0, 1]).lenCL.write (clOrder.getD 3 0) 1 } :
        State).lens .cl) = 2 ^ 7 ∧
      kraftSum 7 (({ withLens [0, 1] with lenCL := (withLens [0, 1]).lenCL.write (clOrder.getD 3 0) 0 } :
        State).lens .cl) ≠ 2 ^ 7 := by decide
theorem witness_CodeLengthSymbols :
    (Instr.cl16 4 0).clFields = some (16, 4, 0) ∧ (Instr.cl1 4).clFields = some (1, 4, 0) ∧
      (inMode (.dynLens 257 1 []) []).phase = .dynLens 257 1 [] ∧
      (List.replicate 255 0 ++ [1, 1] ++ [1] : List Nat).length = 257 + 1 ∧
      ((List.replicate 255 0 ++ [1, 1] ++ [1]).take 257 ++ List.replicate (288 - 257) 0).getD 256 0 ≠ 0 ∧
      codeAccepted .ll
        ((List.replicate 255 0 ++ [1, 1] ++ [1]).take 257 ++ List.replicate (288 - 257) 0) = true ∧
      codeAccepted .d
        ((List.replicate 255 0 ++ [1, 1] ++ [1]).drop 257 ++ List.replicate (32 - (258 - 257)) 0) = true ∧
      codeAccepted .d (2 :: List.replicate 31 0) = false := by decide
theorem witness_ZlibElements :
    (inStream .zlibHdr false 1 []).phase = .zlibHdr ∧ (inStream .zlibAdler true 1 [0x61]).phase = .zlibAdler ∧
      BitVec.ofNat 32 (adlerOf (inStream .zlibAdler true 1 [0x61]).outputBytes) = 0x00620062 := by decide
theorem witness_ElementOutOfModeStops :
    encodeHost .fixedEob = none ∧ (State.reset.phase).admits .fixedEob = false ∧
      (inMode (.storedData 2) []).phase.admits (.storedData [1]) = false := by decide

end Sys2Proof.Tests
end

/-! ## The element at the cursor

What `decodeElem` can answer, said once (spec/30_encoding.md R100 to R112): the proofs about a step
inside a decode command go through `ElementAt` and do not open the decoder. -/

namespace Sys2Proof

/-! ### The fields of a symbol's element -/

/-- A length symbol's element carries the symbol's index and the extra bits that fit its field (R106). -/
theorem lengthElem_fields {k x : Nat} {i : Instr} (h : lengthElem k x = some i) :
    i.lengthFields = some (k, x % 2 ^ lengthExtra k) := by
  have hk : k < 29 := (List.getElem?_eq_some_iff.1 h).1
  have h0 : 0 = x % 1 := (Nat.mod_one x).symm
  interval_cases k <;> cases h <;> first | rfl | exact congrArg (fun y => some (_, y)) h0

/-- A distance symbol's element carries the symbol and the extra bits that fit its field (R107). -/
theorem distElem_fields {d x : Nat} {i : Instr} (h : distElem d x = some i) :
    i.distFields = some (d, x % 2 ^ distExtra d) := by
  have hd : d < 32 := (List.getElem?_eq_some_iff.1 h).1
  have h0 : 0 = x % 1 := (Nat.mod_one x).symm
  interval_cases d <;> cases h <;> first | rfl | exact congrArg (fun y => some (_, y)) h0

/-- A code-length symbol's element carries the symbol, its codeword's length as a 4-bit field, and the
extra bits that fit its field (R109). -/
theorem clElem_fields {k n x : Nat} {i : Instr} (h : clElem k n x = some i) :
    i.clFields = some (k, n % 16, x % 2 ^ clExtra k) := by
  have hk : k < 19 := (List.getElem?_eq_some_iff.1 h).1
  have h0 : 0 = x % 1 := (Nat.mod_one x).symm
  interval_cases k <;> cases h <;> first | rfl | exact congrArg (fun y => some (_, _, y)) h0

/-! ### Reading -/

/-- `ReadBits` for an element: enough bits, and the element made of the field read (R143). -/
theorem readElem_ok {bit : Nat → Bool} {rem skip n m : Nat} {mk : Nat → Instr} {i : Instr}
    (h : readElem bit rem skip n mk = .ok (i, m)) :
    skip + n ≤ rem ∧ i = mk (fieldAt bit skip n) := by
  unfold readElem at h
  split at h
  · cases h
  · next hr => cases h; exact ⟨by omega, rfl⟩

theorem elemOr_ok {o : Option Instr} {n m : Nat} {i : Instr} (h : elemOr o n = .ok (i, m)) :
    o = some i := by
  cases o <;> cases h
  rfl

/-- A symbol that `DecodeSym` answers is an entry of the table, and its codeword is in the input
(R196). -/
theorem decodeSym_ok {a : Alphabet} {t : DecTable} {bit : Nat → Bool} {rem sym n : Nat}
    (h : decodeSym a t bit rem = .ok (sym, n)) :
    0 < n ∧ n ≤ rem ∧ t.entry a (fieldAt (peekBit bit rem) 0 a.maxBits) = (sym, n) := by
  rcases Machine.decodeSym_cases a t bit rem with ⟨-, he⟩ | ⟨-, -, he⟩ | ⟨hpos, hle, he⟩ <;>
    rw [he] at h
  · cases h
  · cases h
  · have hentry := Except.ok.inj h
    exact ⟨by simpa [hentry] using hpos, by simpa [hentry] using hle, hentry⟩

/-- A symbol's codeword is in the input (R196). -/
theorem decodeSym_le {a : Alphabet} {t : DecTable} {bit : Nat → Bool} {rem sym n : Nat}
    (h : decodeSym a t bit rem = .ok (sym, n)) : n ≤ rem := by
  obtain ⟨-, hle, -⟩ := decodeSym_ok h
  exact hle

/-! ### The tables of the fixed code -/

/-- A row of the table built from code lengths has its symbol's length (R191). -/
theorem length_of_mem_decodeRows {first : Nat} {lens codes : List Nat} {r : DecRow}
    (h : r ∈ decodeRows first lens codes) : first ≤ r.sym ∧ lens[r.sym - first]? = some r.len := by
  induction lens generalizing first codes with
  | nil => simp [decodeRows] at h
  | cons n ls ih =>
    cases codes with
    | nil => simp [decodeRows] at h
    | cons c cs =>
      have later : r ∈ decodeRows (first + 1) ls cs →
          first ≤ r.sym ∧ (n :: ls)[r.sym - first]? = some r.len := by
        intro hr
        obtain ⟨hle, hlen⟩ := ih hr
        have e : r.sym - first = r.sym - (first + 1) + 1 := by omega
        exact ⟨by omega, by rw [e]; simpa using hlen⟩
      unfold decodeRows at h
      split at h
      · exact later h
      · rcases List.mem_cons.1 h with rfl | hr
        · simp
        · exact later hr

/-- An entry that marks a codeword comes from a row. -/
theorem exists_row_of_rowEntry {rows : List DecRow} {index sym n : Nat}
    (h : rowEntry rows index = (sym, n)) (hn : 0 < n) :
    ∃ r ∈ rows, r.sym = sym ∧ r.len = n := by
  unfold rowEntry at h
  split at h
  · next r hr => cases h; exact ⟨r, List.mem_of_find?_eq_some hr, rfl, rfl⟩
  · cases h; omega

/-- An entry of a built table that marks a codeword has its symbol's length (R191, R193). -/
theorem entry_builtTable {a : Alphabet} {lens : List Nat} {index sym n : Nat}
    (h : (builtTable a lens).entry a index = (sym, n)) (hn : 0 < n) : lens[sym]? = some n := by
  obtain ⟨r, hr, rfl, rfl⟩ := exists_row_of_rowEntry h hn
  exact (length_of_mem_decodeRows hr).2

/-- The codeword lengths of the fixed literal/length code (R104, R105). -/
theorem fixedLenLL_length {sym n : Nat} (h : fixedLenLL[sym]? = some n) :
    n = if sym ≤ 143 then 8 else if sym ≤ 255 then 9 else if sym ≤ 279 then 7 else 8 := by
  simp only [fixedLenLL, List.getElem?_append, List.getElem?_replicate, List.length_append,
    List.length_replicate] at h
  split_ifs at h ⊢ <;> first | omega | simpa using h.symm

/-- The codeword lengths of the fixed distance code (R104, R105). -/
theorem fixedLenD_length {sym n : Nat} (h : fixedLenD[sym]? = some n) : n = 5 := by
  simp only [fixedLenD, List.getElem?_replicate] at h
  split_ifs at h
  simpa using h.symm

/-- A literal/length symbol of the fixed code takes the bits R105 gives it, which are in the input. -/
theorem decodeSym_fixedLL {t : DecTable} {bit : Nat → Bool} {rem sym n : Nat}
    (h : decodeSym .ll t bit rem = .ok (sym, n)) (ht : t = fixedTable .ll) :
    (if sym ≤ 143 then 8 else if sym ≤ 255 then 9 else if sym ≤ 279 then 7 else 8) ≤ rem := by
  obtain ⟨hpos, hle, he⟩ := decodeSym_ok h
  rw [ht] at he
  exact fixedLenLL_length (entry_builtTable he hpos) ▸ hle

/-- A distance symbol of the fixed code takes 5 bits, which are in the input (R105). -/
theorem decodeSym_fixedD {t : DecTable} {bit : Nat → Bool} {rem sym n : Nat}
    (h : decodeSym .d t bit rem = .ok (sym, n)) (ht : t = fixedTable .d) : 5 ≤ rem := by
  obtain ⟨hpos, hle, he⟩ := decodeSym_ok h
  rw [ht] at he
  exact fixedLenD_length (entry_builtTable he hpos) ▸ hle

/-! ### The elements of each mode -/

/-- The elements that can stand at the cursor in a decode mode with `rem` bits left, with what is known
of their fields and of the bits they take (R100 to R112). A codeword of the fixed code is as long as R105
says when the fixed code's tables are loaded. -/
inductive ElementAt (c : StreamCtx) (rem : Nat) : Instr → Prop
  | zlibHdr (cmf flg : BitVec 8) : c.phase = .zlibHdr → 16 ≤ rem → ElementAt c rem (.zlibHdr cmf flg)
  | blockStored (f : Bool) : c.phase = .blockHdr → 3 ≤ rem → ElementAt c rem (.blockStored f)
  | blockFixed (f : Bool) : c.phase = .blockHdr → 3 ≤ rem → ElementAt c rem (.blockFixed f)
  | blockDynamic (f : Bool) : c.phase = .blockHdr → 3 ≤ rem → ElementAt c rem (.blockDynamic f)
  | blockReserved (f : Bool) : c.phase = .blockHdr → 3 ≤ rem → ElementAt c rem (.blockReserved f)
  | storedLen (len nlen : BitVec 16) : c.phase = .storedLen → alignPad c.off + 32 ≤ rem →
      ElementAt c rem (.storedLen len nlen)
  | storedData (payload : List (BitVec 8)) : c.phase = .storedData payload.length →
      8 * payload.length ≤ rem → ElementAt c rem (.storedData payload)
  | dynHdr (hlit hdist : BitVec 5) (hclen : BitVec 4) : c.phase = .dynHdr → 14 ≤ rem →
      ElementAt c rem (.dynHdr hlit hdist hclen)
  | dynClLen (v : BitVec 3) (nl nd nc j : Nat) : c.phase = .dynClLen nl nd nc j → 3 ≤ rem →
      ElementAt c rem (.dynClLen v)
  | codeLength (i : Instr) (k n x nl nd : Nat) (seq : List Nat) : c.phase = .dynLens nl nd seq →
      i.clFields = some (k, n, x) → n + clExtra k ≤ rem → ElementAt c rem i
  | fixedLit0To143 (sym : BitVec 8) : c.phase = .data .fixed →
      (c.ll = fixedTable .ll → 8 ≤ rem) → ElementAt c rem (.fixedLit0To143 sym)
  | fixedLit144To255 (sym : BitVec 8) : c.phase = .data .fixed →
      (c.ll = fixedTable .ll → 9 ≤ rem) → ElementAt c rem (.fixedLit144To255 sym)
  | fixedEob : c.phase = .data .fixed → (c.ll = fixedTable .ll → 7 ≤ rem) →
      ElementAt c rem .fixedEob
  | fixedLen257To279 (sym : BitVec 9) : c.phase = .data .fixed → 257 ≤ sym.toNat →
      sym.toNat ≤ 279 → (c.ll = fixedTable .ll → 7 ≤ rem) → ElementAt c rem (.fixedLen257To279 sym)
  | fixedLen280To285 (sym : BitVec 9) : c.phase = .data .fixed → 280 ≤ sym.toNat →
      sym.toNat ≤ 285 → (c.ll = fixedTable .ll → 8 ≤ rem) → ElementAt c rem (.fixedLen280To285 sym)
  | fixedLL286To287 (sym : BitVec 9) : c.phase = .data .fixed →
      ElementAt c rem (.fixedLL286To287 sym)
  | dynLit (sym : BitVec 8) (n : BitVec 4) : c.phase = .data .dynamic → n.toNat ≤ rem →
      ElementAt c rem (.dynLit sym n)
  | dynEob (n : BitVec 4) : c.phase = .data .dynamic → n.toNat ≤ rem → ElementAt c rem (.dynEob n)
  | dynLen (sym : BitVec 9) (n : BitVec 4) : c.phase = .data .dynamic → 257 ≤ sym.toNat →
      sym.toNat ≤ 285 → n.toNat ≤ rem → ElementAt c rem (.dynLen sym n)
  | length (i : Instr) (k : BlockKind) (j x : Nat) : c.phase = .lenExtra k (257 + j) →
      i.lengthFields = some (j, x) → lengthExtra j ≤ rem → ElementAt c rem i
  | fixedDist (d : BitVec 5) (len : Nat) : c.phase = .distCode .fixed len →
      (c.d = fixedTable .d → 5 ≤ rem) → ElementAt c rem (.fixedDist d)
  | dynDist (d : BitVec 5) (n : BitVec 4) (len : Nat) : c.phase = .distCode .dynamic len →
      n.toNat ≤ rem → ElementAt c rem (.dynDist d n)
  | dist (i : Instr) (k : BlockKind) (len d x : Nat) : c.phase = .distExtra k len d →
      i.distFields = some (d, x) → distExtra d ≤ rem → ElementAt c rem i
  | zlibAdler (t : BitVec 32) : c.phase = .zlibAdler → 32 ≤ rem → ElementAt c rem (.zlibAdler t)

section
variable {c : StreamCtx} {bit : Nat → Bool} {rem n : Nat} {i : Instr}

/-- Every value of the header's three bits is one of the four block types (R101). -/
theorem ElementAt.header (hp : c.phase = .blockHdr) (hr : 3 ≤ rem) (f : Bool) (bt : Nat) :
    ElementAt c rem ([.blockStored f, .blockFixed f, .blockDynamic f, .blockReserved f].getD bt
      (.blockReserved f)) :=
  match bt with
  | 0 => .blockStored f hp hr
  | 1 => .blockFixed f hp hr
  | 2 => .blockDynamic f hp hr
  | 3 => .blockReserved f hp hr
  | _ + 4 => .blockReserved f hp hr

/-- The codeword of a code-length symbol with its extra bits (R109, R278). -/
theorem decodeClElem_elementAt {nl nd : Nat} {seq : List Nat} (hp : c.phase = .dynLens nl nd seq)
    (h : decodeClElem c.cl seq bit rem = .ok (i, n)) : ElementAt c rem i := by
  unfold decodeClElem at h
  split at h
  · cases h
  · next k m hs =>
    split_ifs at h with h16 hrem
    have hm : m % 16 ≤ m := Nat.mod_le m 16
    exact .codeLength i k _ _ nl nd seq hp (clElem_fields (elemOr_ok h)) (by omega)

/-- A literal/length symbol of the fixed code (R105). -/
theorem fixedElem_elementAt {sym : Nat} (hp : c.phase = .data .fixed)
    (hs : decodeSym .ll c.ll bit rem = .ok (sym, n)) (h : fixedElem sym = some i) :
    ElementAt c rem i := by
  have hbits := decodeSym_fixedLL hs
  unfold fixedElem at h
  split_ifs at h with h1 h2 h3 h4 h5 h6 <;> cases h
  · exact .fixedLit0To143 _ hp fun ht => by simpa [h1] using hbits ht
  · exact .fixedLit144To255 _ hp fun ht => by simpa [h1, h2] using hbits ht
  · exact .fixedEob hp fun ht => by simpa [h3] using hbits ht
  · have e : (BitVec.ofNat 9 sym).toNat = sym := Nat.mod_eq_of_lt (by omega)
    exact .fixedLen257To279 _ hp (by omega) (by omega) fun ht => by
      simpa [h1, h2, h4] using hbits ht
  · have e : (BitVec.ofNat 9 sym).toNat = sym := Nat.mod_eq_of_lt (by omega)
    exact .fixedLen280To285 _ hp (by omega) (by omega) fun ht => by
      simpa [h1, h2, h4] using hbits ht
  · exact .fixedLL286To287 _ hp

/-- A literal/length symbol of a transmitted code (R103). -/
theorem dynElem_elementAt {sym : Nat} (hp : c.phase = .data .dynamic) (hn : n ≤ rem)
    (h : dynElem sym n = some i) : ElementAt c rem i := by
  have hlen : (BitVec.ofNat 4 n).toNat ≤ rem := Nat.le_trans (Nat.mod_le _ _) hn
  unfold dynElem at h
  split_ifs at h with h1 h2 h3 <;> cases h
  · exact .dynLit _ _ hp hlen
  · exact .dynEob _ hp hlen
  · have e : (BitVec.ofNat 9 sym).toNat = sym := Nat.mod_eq_of_lt (by omega)
    exact .dynLen _ _ hp (by omega) (by omega) hlen

/-- What the stream decoder answers is an element of the current mode (R100, R112). -/
theorem decodeElem_elementAt (h : decodeElem c bit rem = .ok (i, n)) : ElementAt c rem i := by
  unfold decodeElem at h
  split at h
  case h_1 => cases h
  case h_2 hp => obtain ⟨hr, rfl⟩ := readElem_ok h; exact .zlibHdr _ _ hp (by omega)
  case h_3 hp => obtain ⟨hr, rfl⟩ := readElem_ok h; exact .header hp (by omega) _ _
  case h_4 hp => obtain ⟨hr, rfl⟩ := readElem_ok h; exact .storedLen _ _ hp hr
  case h_5 len hp =>
    split at h
    · cases h
    · cases h; exact .storedData _ (by simpa using hp) (by simp; omega)
  case h_6 hp => obtain ⟨hr, rfl⟩ := readElem_ok h; exact .dynHdr _ _ _ hp (by omega)
  case h_7 hp => obtain ⟨hr, rfl⟩ := readElem_ok h; exact .dynClLen _ _ _ _ _ hp (by omega)
  case h_8 hp => exact decodeClElem_elementAt hp h
  case h_9 hp =>
    split at h
    · cases h
    · next hs => exact fixedElem_elementAt hp hs (elemOr_ok h)
  case h_10 hp =>
    split at h
    · cases h
    · next hs => exact dynElem_elementAt hp (decodeSym_le hs) (elemOr_ok h)
  case h_11 k sym hp =>
    simp only at h
    split_ifs at h with hrem hsym
    · obtain ⟨j, rfl⟩ := Nat.exists_eq_add_of_le hsym
      rw [Nat.add_sub_cancel_left] at h hrem
      exact .length i k j _ hp (lengthElem_fields (elemOr_ok h)) (by omega)
    · cases h
  case h_12 hp =>
    split at h
    · cases h
    · next hs =>
      have hi := elemOr_ok h
      split_ifs at hi
      cases hi
      exact .fixedDist _ _ hp (decodeSym_fixedD hs)
  case h_13 hp =>
    split at h
    · cases h
    · next hs =>
      have hi := elemOr_ok h
      split_ifs at hi
      cases hi
      exact .dynDist _ _ _ hp (Nat.le_trans (Nat.mod_le _ _) (decodeSym_le hs))
  case h_14 k len d hp =>
    simp only at h
    split_ifs at h with hrem
    exact .dist i k len d _ hp (distElem_fields (elemOr_ok h)) (by omega)
  case h_15 hp => obtain ⟨hr, rfl⟩ := readElem_ok h; exact .zlibAdler _ hp (by omega)

end
end Sys2Proof

/-! ## What one step inside a decode command can do

`DecodeMove` lists the next states of an element step (spec/45_block_decoder.md R270 to R286), and
`step_cases` those of any step. Invariants are derived from the two. -/

namespace Sys2Proof.Machine

/-! ### Elements are executed by `execElement` -/

theorem exec_eq_execElement {i : Instr} (h : (encodeHost i).isSome = false) (s : State) :
    exec i s = execElement i s := by
  cases i <;> cases h <;> rfl

theorem encodeHost_of_lengthFields {i : Instr} {p : Nat × Nat} (h : i.lengthFields = some p) :
    (encodeHost i).isSome = false := by
  cases i <;> cases h <;> rfl

theorem encodeHost_of_distFields {i : Instr} {p : Nat × Nat} (h : i.distFields = some p) :
    (encodeHost i).isSome = false := by
  cases i <;> cases h <;> rfl

theorem encodeHost_of_clFields {i : Instr} {p : Nat × Nat × Nat} (h : i.clFields = some p) :
    (encodeHost i).isSome = false := by
  cases i <;> cases h <;> rfl

/-- No element at the cursor is a command (R90, R100). -/
theorem encodeHost_of_elementAt {c : StreamCtx} {rem : Nat} {i : Instr} (h : ElementAt c rem i) :
    (encodeHost i).isSome = false := by
  cases h with
  | codeLength _ _ _ _ _ _ _ _ hf => exact encodeHost_of_clFields hf
  | length _ _ _ _ _ hf => exact encodeHost_of_lengthFields hf
  | dist _ _ _ _ _ _ hf => exact encodeHost_of_distFields hf
  | _ => rfl

/-- A length symbol's element does `lengthElement`; its length is in the range of R106. -/
theorem execElement_of_lengthFields {i : Instr} {j x : Nat} (h : i.lengthFields = some (j, x))
    (s : State) : execElement i s = lengthElement j x s ∧ 3 ≤ lengthBase j + x ∧
      lengthBase j + x ≤ 258 := by
  have extra : ∀ {w : Nat} (y : BitVec w), y.toNat < 2 ^ w := fun y => y.isLt
  cases i <;> cases h <;> refine ⟨rfl, ?_⟩ <;>
    first | decide | (next y => have := extra y; simp [lengthBase, lengthBases]; omega)

/-- A code-length symbol's element does `clElement` (R278). -/
theorem execElement_of_clFields {i : Instr} {k n x : Nat} (h : i.clFields = some (k, n, x))
    (s : State) : execElement i s = clElement k n x s := by
  cases i <;> cases h <;> rfl

/-- A distance symbol's element does `distElement`, or raises for 30 and 31, which denote nothing
(R284). -/
theorem execElement_of_distFields {i : Instr} {d x : Nat} (h : i.distFields = some (d, x))
    (s : State) :
    execElement i s = distElement d x s ∨ execElement i s = distInvalidElement d s := by
  cases i <;> cases h <;> first | exact .inl rfl | exact .inr rfl

/-! ### The tables of the fixed code while it is decoded -/

/-- The decode modes that read the fixed code's tables (R275). -/
def readsFixed : Phase → Bool
  | .data k | .lenExtra k _ | .distCode k _ | .distExtra k _ _ => k == .fixed
  | _ => false

/-- Where a mode reads the fixed code's tables, they are loaded (R275). -/
def State.FixedLoaded (s : State) : Prop :=
  readsFixed s.phase = true → s.dtblLL = fixedTable .ll ∧ s.dtblD = fixedTable .d

theorem fixedLoaded_of_ctxOk {s : State} (h : ctxOk s.ctx = true) : s.FixedLoaded := by
  intro hr
  simp only [ctxOk, State.ctx, Bool.and_eq_true] at h
  obtain ⟨-, hm⟩ := h
  revert hr hm
  cases s.phase with
  | data k => cases k <;> simp [readsFixed]
  | lenExtra k _ => cases k <;> simp [readsFixed]
  | distCode k _ => cases k <;> simp [readsFixed]
  | distExtra k _ _ => cases k <;> simp [readsFixed]
  | _ => simp [readsFixed]

/-- The next `n` bits are in the input, if the fixed code's tables are loaded where a mode needs them. -/
def State.Covers (s : State) (n : Nat) : Prop := s.FixedLoaded → n ≤ s.remaining

theorem State.Covers.of_le {s : State} {n : Nat} (h : n ≤ s.remaining) : s.Covers n := fun _ => h

theorem State.Covers.of_fixedLL {s : State} {n : Nat} (hp : s.phase = .data .fixed)
    (h : s.dtblLL = fixedTable .ll → n ≤ s.remaining) : s.Covers n :=
  fun hf => h (hf (by rw [hp]; rfl)).1

theorem State.Covers.of_fixedD {s : State} {len n : Nat} (hp : s.phase = .distCode .fixed len)
    (h : s.dtblD = fixedTable .d → n ≤ s.remaining) : s.Covers n :=
  fun hf => h (hf (by rw [hp]; rfl)).2

/-! ### The moves of an element step -/

/-- The next states of an element step: the error it raises, or the next mode with the bits the element
takes consumed and its effect done. -/
inductive DecodeMove (s : State) : State → Prop
  | raised (e : HwError) : DecodeMove s (s.raiseDecode e)
  | zlibHdr : s.phase = .zlibHdr → 16 ≤ s.remaining →
      DecodeMove s { s.skip 16 with phase := .blockHdr }
  | storedHeader (f : Bool) : s.phase = .blockHdr → 3 ≤ s.remaining →
      DecodeMove s { s.skip 3 with
        run := { s.run with bfinal := f, btype := 0 }, phase := .storedLen }
  | fixedHeader (f : Bool) : s.phase = .blockHdr → 3 ≤ s.remaining →
      DecodeMove s
        (State.loadFixed { s.skip 3 with run := { s.run with bfinal := f, btype := 1 } })
  | dynamicHeader (f : Bool) : s.phase = .blockHdr → 3 ≤ s.remaining →
      DecodeMove s { s.skip 3 with
        run := { s.run with bfinal := f, btype := 2 }, phase := .dynHdr }
  | reservedHeader (f : Bool) : s.phase = .blockHdr → 3 ≤ s.remaining →
      DecodeMove s (State.raiseDecode .invalidBlockType
        { s.skip 3 with run := { s.run with bfinal := f, btype := 3 } })
  | storedLen (len : BitVec 16) : s.phase = .storedLen →
      alignPad (s.rpos % 8) + 32 ≤ s.remaining →
      DecodeMove s { s.alignR.skip 32 with phase := .storedData len.toNat }
  | storedData (payload : List Byte) : s.phase = .storedData payload.length →
      8 * payload.length ≤ s.remaining →
      DecodeMove s ((s.skip (8 * payload.length)).outBytes payload).endBlock
  | dynHdr (nl nd nc : Nat) : s.phase = .dynHdr → 14 ≤ s.remaining → 257 ≤ nl → nl ≤ 286 →
      1 ≤ nd → nd ≤ 30 → 4 ≤ nc → nc ≤ 19 →
      DecodeMove s { (s.skip 14).setLens .cl (List.replicate 19 0) with
        phase := .dynClLen nl nd nc 0 }
  | dynClLen (v : BitVec 3) (nl nd nc j : Nat) : s.phase = .dynClLen nl nd nc j →
      3 ≤ s.remaining → j + 1 < nc →
      DecodeMove s { s.skip 3 with
        lenCL := s.lenCL.write (clOrder.getD j 0) v, phase := .dynClLen nl nd nc (j + 1) }
  | dynClLast (v : BitVec 3) (nl nd nc j : Nat) (lens : List Nat) :
      s.phase = .dynClLen nl nd nc j → 3 ≤ s.remaining → nc ≤ j + 1 →
      lens = State.lens { s.skip 3 with lenCL := s.lenCL.write (clOrder.getD j 0) v } .cl →
      codeAccepted .cl lens = true →
      DecodeMove s
        { State.setDtbl .cl (builtTable .cl lens)
            { s.skip 3 with lenCL := s.lenCL.write (clOrder.getD j 0) v } with
          phase := .dynLens nl nd [] }
  | codeLength (k n x nl nd : Nat) (seq : List Nat) : s.phase = .dynLens nl nd seq →
      n + clExtra k ≤ s.remaining → (expandPair seq (k, x)).length < nl + nd →
      DecodeMove s { s.skip (n + clExtra k) with phase := .dynLens nl nd (expandPair seq (k, x)) }
  | lastCodeLength (k n x nl nd : Nat) (seq : List Nat) (t : State) :
      s.phase = .dynLens nl nd seq → n + clExtra k ≤ s.remaining →
      (expandPair seq (k, x)).length = nl + nd →
      (s.skip (n + clExtra k)).loadDynamic nl (expandPair seq (k, x)) = .ok t → DecodeMove s t
  | literal (k : BlockKind) (b : Byte) (n : Nat) : s.phase = .data k → s.Covers n →
      DecodeMove s ((s.skip n).outBytes [b])
  | endOfBlock (k : BlockKind) (n : Nat) : s.phase = .data k → s.Covers n →
      DecodeMove s (s.skip n).endBlock
  | lengthCode (k : BlockKind) (sym n : Nat) : s.phase = .data k → s.Covers n → 257 ≤ sym →
      sym ≤ 285 → DecodeMove s { s.skip n with phase := .lenExtra k sym }
  | lengthExtra (k : BlockKind) (j len : Nat) : s.phase = .lenExtra k (257 + j) →
      lengthExtra j ≤ s.remaining → 3 ≤ len → len ≤ 258 →
      DecodeMove s { s.skip (lengthExtra j) with phase := .distCode k len }
  | distCode (k : BlockKind) (len d n : Nat) : s.phase = .distCode k len → s.Covers n → d ≤ 31 →
      DecodeMove s { s.skip n with phase := .distExtra k len d }
  | copy (k : BlockKind) (len d dist : Nat) : s.phase = .distExtra k len d →
      distExtra d ≤ s.remaining → dist ≤ s.window → dist ≤ s.olen →
      DecodeMove s { copyBytes dist len (s.skip (distExtra d)) with phase := .data k }
  | zlibAdler : s.phase = .zlibAdler → 32 ≤ s.remaining →
      DecodeMove s
        (State.finish
          { State.dropTables { s.skip 32 with adler := BitVec.ofNat 32 (adlerOf s.outputBytes) } with
            icons := (s.rpos + 32) / 8, phase := .idle })

/-! ### The operations behind the moves -/

theorem execStoredLen_next {len nlen : BitVec 16} {s t : State}
    (h : execStoredLen len nlen s = .next t) :
    t = { s.alignR.skip 32 with phase := .storedData len.toNat } ∨
      t = s.raiseDecode .invalidStoredLength := by
  unfold execStoredLen at h
  split at h
  · split_ifs at h <;> cases h
    · exact .inl rfl
    · exact .inr rfl
  · cases h

theorem execStoredData_next {payload : List Byte} {s t : State}
    (h : execStoredData payload s = .next t) :
    t = ((s.skip (8 * payload.length)).outBytes payload).endBlock := by
  unfold execStoredData at h
  split_ifs at h
  cases h
  rfl

theorem execZlibHdr_next {cmf flg : BitVec 8} {s t : State}
    (h : execZlibHdr cmf flg s = .next t) :
    t = { s.skip 16 with phase := .blockHdr } ∨ t = s.raiseDecode .invalidHeader := by
  unfold execZlibHdr at h
  split at h
  · split_ifs at h <;> cases h
    · exact .inl rfl
    · exact .inr rfl
  · cases h

theorem execZlibAdler_next {v : BitVec 32} {s t : State} (h : execZlibAdler v s = .next t) :
    t = State.finish
        { State.dropTables { s.skip 32 with adler := BitVec.ofNat 32 (adlerOf s.outputBytes) } with
          icons := (s.rpos + 32) / 8, phase := .idle } ∨
      t = s.raiseDecode .checksumMismatch := by
  unfold execZlibAdler at h
  split at h
  · simp only at h
    split_ifs at h <;> cases h
    · exact .inl rfl
    · exact .inr rfl
  · cases h

theorem execFixedLL286To287_next {sym : BitVec 9} {s t : State}
    (h : execFixedLL286To287 sym s = .next t) : t = s.raiseDecode .invalidHuffmanCode := by
  unfold execFixedLL286To287 at h
  split_ifs at h
  cases h
  rfl

/-- The counts of a dynamic block's header, refused above 286 and 30 (R276). -/
theorem execDynHdr_next {hlit hdist : BitVec 5} {hclen : BitVec 4} {s t : State}
    (h : execDynHdr hlit hdist hclen s = .next t) :
    t = s.raiseDecode .invalidHuffmanCode ∨
      (hlit.toNat + 257 ≤ 286 ∧ hdist.toNat + 1 ≤ 30 ∧
        t = { (s.skip 14).setLens .cl (List.replicate 19 0) with
          phase := .dynClLen (hlit.toNat + 257) (hdist.toNat + 1) (hclen.toNat + 4) 0 }) := by
  unfold execDynHdr at h
  split at h
  · simp only at h
    split_ifs at h with hn <;> cases h
    · exact .inl rfl
    · exact .inr ⟨by omega, by omega, rfl⟩
  · cases h

/-- One length of the code-length code: more to come, or the code is built or refused (R277). -/
theorem execDynClLen_next {v : BitVec 3} {nl nd nc j : Nat} {s t : State}
    (hp : s.phase = .dynClLen nl nd nc j) (h : execDynClLen v s = .next t) :
    (∃ e, t = s.raiseDecode e) ∨
      (j + 1 < nc ∧ t = { s.skip 3 with
        lenCL := s.lenCL.write (clOrder.getD j 0) v, phase := .dynClLen nl nd nc (j + 1) }) ∨
      (nc ≤ j + 1 ∧ ∃ lens,
        lens = State.lens { s.skip 3 with lenCL := s.lenCL.write (clOrder.getD j 0) v } .cl ∧
        codeAccepted .cl lens = true ∧
        t = { State.setDtbl .cl (builtTable .cl lens)
            { s.skip 3 with lenCL := s.lenCL.write (clOrder.getD j 0) v } with
          phase := .dynLens nl nd [] }) := by
  unfold execDynClLen at h
  simp only [hp] at h
  split at h
  · next hj => cases h; exact .inr (.inl ⟨hj, rfl⟩)
  · next hj =>
    rcases buildDecoder_cases .cl
      (State.lens { s.skip 3 with lenCL := s.lenCL.write (clOrder.getD j 0) v } .cl)
      { s.skip 3 with lenCL := s.lenCL.write (clOrder.getD j 0) v } with ⟨hacc, he⟩ | ⟨-, he⟩
    · rw [he] at h
      cases h
      exact .inr (.inr ⟨by omega, _, rfl, hacc, rfl⟩)
    · rw [he] at h
      cases h
      exact .inl ⟨_, rfl⟩

/-- A code-length symbol: the lengths so far grow, the last of them loads the tables, or it is refused
(R278, R279). -/
theorem clElement_next {k n x nl nd : Nat} {seq : List Nat} {s t : State}
    (hp : s.phase = .dynLens nl nd seq) (h : clElement k n x s = .next t) :
    (∃ e, t = s.raiseDecode e) ∨
      ((expandPair seq (k, x)).length < nl + nd ∧
        t = { s.skip (n + clExtra k) with phase := .dynLens nl nd (expandPair seq (k, x)) }) ∨
      ((expandPair seq (k, x)).length = nl + nd ∧
        (s.skip (n + clExtra k)).loadDynamic nl (expandPair seq (k, x)) = .ok t) := by
  unfold clElement at h
  simp only [hp] at h
  split at h
  · cases h; exact .inl ⟨_, rfl⟩
  · change (match (s.skip (n + clExtra k)).extendLens nl nd (expandPair seq (k, x)) with
      | .ok t => Host.Outcome.next t
      | .error e => .next (s.raiseDecode e)) = .next t at h
    rcases extendLens_cases nl nd (expandPair seq (k, x)) (s.skip (n + clExtra k)) with
      he | ⟨hlen, he⟩ | ⟨hlen, he⟩
    · rw [he] at h; cases h; exact .inl ⟨_, rfl⟩
    · rw [he] at h
      split at h
      · next hl => cases h; exact .inr (.inr ⟨hlen, hl⟩)
      · cases h; exact .inl ⟨_, rfl⟩
    · rw [he] at h; cases h; exact .inr (.inl ⟨hlen, rfl⟩)

/-- Executing the element at the cursor is one of the moves. -/
theorem execElement_move {i : Instr} {s t : State} (hi : ElementAt s.ctx s.remaining i)
    (h : execElement i s = .next t) : DecodeMove s t := by
  cases hi with
  | zlibHdr cmf flg hp hr =>
    rcases execZlibHdr_next h with rfl | rfl
    · exact .zlibHdr hp hr
    · exact .raised _
  | blockStored f hp hr =>
    obtain ⟨-, rfl⟩ := headerElement_next (f := f) (g := fun u => { u with phase := .storedLen }) h
    exact .storedHeader f hp hr
  | blockFixed f hp hr => obtain ⟨-, rfl⟩ := headerElement_next h; exact .fixedHeader f hp hr
  | blockDynamic f hp hr =>
    obtain ⟨-, rfl⟩ := headerElement_next (f := f) (g := fun u => { u with phase := .dynHdr }) h
    exact .dynamicHeader f hp hr
  | blockReserved f hp hr => obtain ⟨-, rfl⟩ := headerElement_next h; exact .reservedHeader f hp hr
  | storedLen len nlen hp hr =>
    rcases execStoredLen_next h with rfl | rfl
    · exact .storedLen len hp hr
    · exact .raised _
  | storedData payload hp hr => exact execStoredData_next h ▸ .storedData payload hp hr
  | dynHdr hlit hdist hclen hp hr =>
    rcases execDynHdr_next h with rfl | ⟨hnl, hnd, rfl⟩
    · exact .raised _
    · have hnc := hclen.isLt
      exact .dynHdr _ _ _ hp hr (by omega) hnl (by omega) hnd (by omega) (by omega)
  | dynClLen v nl nd nc j hp hr =>
    rcases execDynClLen_next hp h with ⟨e, rfl⟩ | ⟨hj, rfl⟩ | ⟨hj, lens, hl, hacc, rfl⟩
    · exact .raised e
    · exact .dynClLen v nl nd nc j hp hr hj
    · exact .dynClLast v nl nd nc j lens hp hr hj hl hacc
  | codeLength _ k n x nl nd seq hp hf hr =>
    rw [execElement_of_clFields hf] at h
    rcases clElement_next hp h with ⟨e, rfl⟩ | ⟨hlen, rfl⟩ | ⟨hlen, hl⟩
    · exact .raised e
    · exact .codeLength k n x nl nd seq hp hr hlen
    · exact .lastCodeLength k n x nl nd seq t hp hr hlen hl
  | fixedLit0To143 sym hp hr =>
    obtain ⟨-, rfl⟩ := literalElement_next h
    exact .literal _ sym _ hp (.of_fixedLL hp hr)
  | fixedLit144To255 sym hp hr =>
    obtain ⟨-, rfl⟩ := literalElement_next h
    exact .literal _ sym _ hp (.of_fixedLL hp hr)
  | fixedEob hp hr =>
    obtain ⟨-, rfl⟩ := eobElement_next h
    exact .endOfBlock _ _ hp (.of_fixedLL hp hr)
  | fixedLen257To279 sym hp hlo hhi hr =>
    obtain ⟨-, rfl⟩ := lengthCodeElement_next h
    exact .lengthCode _ _ _ hp (.of_fixedLL hp hr) hlo (by omega)
  | fixedLen280To285 sym hp hlo hhi hr =>
    obtain ⟨-, rfl⟩ := lengthCodeElement_next h
    exact .lengthCode _ _ _ hp (.of_fixedLL hp hr) (by omega) hhi
  | fixedLL286To287 sym hp => exact execFixedLL286To287_next (sym := sym) h ▸ .raised _
  | dynLit sym n hp hr =>
    obtain ⟨-, rfl⟩ := literalElement_next h
    exact .literal _ sym _ hp (.of_le hr)
  | dynEob n hp hr =>
    obtain ⟨-, rfl⟩ := eobElement_next h
    exact .endOfBlock _ _ hp (.of_le hr)
  | dynLen sym n hp hlo hhi hr =>
    obtain ⟨-, rfl⟩ := lengthCodeElement_next h
    exact .lengthCode _ _ _ hp (.of_le hr) hlo hhi
  | length _ k j x hp hf hr =>
    obtain ⟨he, hlo, hhi⟩ := execElement_of_lengthFields hf s
    obtain ⟨k', hp', rfl⟩ := lengthElement_next (he ▸ h)
    exact .lengthExtra k' j _ hp' hr hlo hhi
  | fixedDist d len hp hr =>
    obtain ⟨len', hp', rfl⟩ := distCodeElement_next h
    exact .distCode _ len' _ _ hp' (.of_fixedD hp hr) (by have := d.isLt; omega)
  | dynDist d n len hp hr =>
    obtain ⟨len', hp', rfl⟩ := distCodeElement_next h
    exact .distCode _ len' _ _ hp' (.of_le hr) (by have := d.isLt; omega)
  | dist _ k len d x hp hf hr =>
    rcases execElement_of_distFields hf s with he | he <;> rw [he] at h
    · obtain ⟨k', len', hp', ⟨hw, ho, rfl⟩ | ⟨-, rfl⟩⟩ := distElement_next h
      · exact .copy k' len' d _ hp' hr hw ho
      · exact .raised _
    · obtain ⟨-, rfl⟩ := distInvalidElement_next h
      exact .raised _
  | zlibAdler v hp hr =>
    rcases execZlibAdler_next h with rfl | rfl
    · exact .zlibAdler hp hr
    · exact .raised _

/-- Everything an element step can do. -/
theorem elementStep_move {s t : State} (h : elementStep s = .next t) : DecodeMove s t := by
  rcases elementStep_cases s with ⟨i, n, hd, he⟩ | ⟨e, -, he⟩ | ⟨-, he⟩ <;> rw [he] at h
  · exact execElement_move (decodeElem_elementAt hd) h
  · cases h; exact .raised e
  · cases h

/-! ### Every step -/

theorem decodeElem_of_fetchElement {s : State} {i : Instr} (h : s.fetchElement = .ok i) :
    ∃ n, decodeElem s.ctx s.streamBit s.remaining = .ok (i, n) := by
  unfold State.fetchElement at h
  split at h <;> cases h
  next n hd => exact ⟨n, hd⟩

/-- Inside a decode command a step is an element step (R100). -/
theorem step_of_decoding {s : State} (hp : s.phase ≠ .idle) : step s = elementStep s := by
  unfold step elementStep
  rw [if_neg hp]
  cases hf : s.fetchElement with
  | ok i =>
    obtain ⟨n, hd⟩ := decodeElem_of_fetchElement hf
    exact exec_eq_execElement (encodeHost_of_elementAt (decodeElem_elementAt hd)) s
  | error e => cases e <;> rfl

theorem encodeHost_ite {p : Prop} [Decidable p] {i j : Instr} (hi : (encodeHost i).isSome = true)
    (hj : (encodeHost j).isSome = true) : (encodeHost (if p then i else j)).isSome = true := by
  split <;> assumption

/-- An opcode stands for a command, listed or reserved (R91, R93). -/
theorem encodeHost_decodeOpcode (op : BitVec 8) : (encodeHost (decodeOpcode op)).isSome = true := by
  unfold decodeOpcode
  iterate 17 refine encodeHost_ite rfl ?_
  rfl

/-- What the host's transactions spell is a command or a pseudo-command (R90, R95). -/
theorem encodeHost_of_decodeHost {txns rest : List HostTxn} {i : Instr}
    (h : decodeHost txns = some (i, rest)) : (encodeHost i).isSome = true := by
  unfold decodeHost at h
  split at h
  · cases h; exact encodeHost_decodeOpcode _
  · split_ifs at h <;> cases h <;> rfl
  · cases h

/-- A transaction that is accepted: a write performed, or the value read left in `hostData`. -/
theorem hostAccess_next {x : HostTxn} {s t : State} (h : hostAccess x s = .next t) :
    (∃ sp i v, s.hostWrite sp i v = .ok t) ∨ ∃ v, t = { s with hostData := v } := by
  unfold hostAccess at h
  split at h
  · split at h <;> cases h
    next hw => exact .inl ⟨_, _, _, hw⟩
  · split at h <;> cases h
    exact .inr ⟨_, rfl⟩

/-- Everything a step can do: wait, run a command, perform a host access, or execute an element. -/
theorem step_cases {s t : State} (h : step s = .next t) :
    t = s ∨
      (s.phase = .idle ∧ ∃ i rest, (encodeHost i).isSome = true ∧
        exec i { s with host := rest } = .next t) ∨
      (∃ x rest, hostAccess x { s with host := rest } = .next t) ∨
      (s.phase ≠ .idle ∧ elementStep s = .next t) := by
  by_cases hp : s.phase = .idle
  · unfold step at h
    rw [if_pos hp] at h
    split_ifs at h with hh hb
    · cases h; exact .inl rfl
    · split at h
      · next i rest hd => exact .inr (.inl ⟨hp, i, rest, encodeHost_of_decodeHost hd, h⟩)
      · split at h
        · next x rest _ => exact .inr (.inr (.inl ⟨x, rest, h⟩))
        · cases h; exact .inl rfl
  · rw [step_of_decoding hp] at h
    exact .inr (.inr (.inr ⟨hp, h⟩))

/-- What every element step keeps, a run of elements keeps. -/
theorem runElements_keeps {P : State → Prop}
    (hstep : ∀ s t, P s → s.phase ≠ .idle → elementStep s = .next t → P t) {n : Nat} {s t : State}
    (hs : P s) (h : runElements n s = .next t) : P t := by
  induction n generalizing s with
  | zero =>
    unfold runElements at h
    split_ifs at h
    cases h
    exact hs
  | succ n ih =>
    unfold runElements at h
    split_ifs at h with hp
    · cases h; exact hs
    · split at h
      · next u hu => exact ih (hstep s u hs hp hu) h
      · cases h
      · cases h

end Sys2Proof.Machine

/-! ## The invariant of the machine state

`MemoriesFit` is the model's `memoriesOk` with a name for each space; each update of the state keeps it.
`Running` is `State.inv` inside a decode command, `BodyKeeps` what the body of a command keeps. -/

namespace Sys2Proof.Machine

/-! ### Spaces in canonical form, within their index ranges (R61) -/

/-- A space in canonical form whose listed indices lie below `n`. -/
def Memory.Fits {w : Nat} (m : Memory w) (n : Nat) : Prop := m.wf = true ∧ m.below n = true

theorem Memory.fits_unspecified {w : Nat} (n tag : Nat) :
    (Memory.unspecified tag : Memory w).Fits n := ⟨rfl, rfl⟩

theorem Memory.Fits.writeRun {w n : Nat} {m : Memory w} (h : m.Fits n) (start : Nat)
    (vs : List (BitVec w)) (hn : start + vs.length ≤ n) : (m.writeRun start vs).Fits n :=
  ⟨m.wf_writeRun start vs h.1, m.below_writeRun start n vs h.2 hn⟩

theorem Memory.Fits.write {w n : Nat} {m : Memory w} (h : m.Fits n) {i : Nat} (v : BitVec w)
    (hi : i < n) : (m.write i v).Fits n :=
  ⟨m.wf_write i v h.1, m.below_write i n v h.2 hi⟩

/-- Every space is in canonical form and within the index range of R61. -/
structure State.MemoriesFit (s : State) : Prop where
  ibuf : s.ibuf.wf = true
  obuf : s.obuf.wf = true
  freqLL : s.freqLL.Fits 286
  freqD : s.freqD.Fits 30
  freqCL : s.freqCL.Fits 19
  lenLL : s.lenLL.Fits 288
  lenD : s.lenD.Fits 32
  lenCL : s.lenCL.Fits 19
  codeLL : s.codeLL.Fits 288
  codeD : s.codeD.Fits 32
  codeCL : s.codeCL.Fits 19
  tok : s.tok.Fits 32768

theorem memoriesOk_iff (s : State) : s.memoriesOk = true ↔ s.MemoriesFit := by
  simp only [State.memoriesOk, Bool.and_eq_true]
  constructor
  · rintro ⟨⟨⟨⟨⟨⟨⟨⟨⟨⟨⟨ib, ob⟩, fl⟩, fd⟩, fc⟩, ll⟩, ld⟩, lc⟩, cl⟩, cd⟩, cc⟩, tok⟩
    exact ⟨ib, ob, fl, fd, fc, ll, ld, lc, cl, cd, cc, tok⟩
  · rintro ⟨ib, ob, fl, fd, fc, ll, ld, lc, cl, cd, cc, tok⟩
    exact ⟨⟨⟨⟨⟨⟨⟨⟨⟨⟨⟨ib, ob⟩, fl⟩, fd⟩, fc⟩, ll⟩, ld⟩, lc⟩, cl⟩, cd⟩, cc⟩, tok⟩

namespace State.MemoriesFit
variable {s : State}

theorem appendBits (h : s.MemoriesFit) (bits : List Bool) : (s.appendBits bits).MemoriesFit := by
  unfold State.appendBits
  split
  · exact h
  · exact { h with obuf := Memory.wf_writeRun _ _ _ h.obuf }

theorem outBytes (h : s.MemoriesFit) (bs : List Byte) : (s.outBytes bs).MemoriesFit := by
  unfold State.outBytes
  split
  · exact h
  · exact { h with obuf := Memory.wf_writeRun _ _ _ h.obuf }

theorem copyBytes (h : s.MemoriesFit) (dist n : Nat) : (copyBytes dist n s).MemoriesFit := by
  induction n generalizing s with
  | zero => exact h
  | succ n ih => exact ih (h.outBytes _)

theorem setTokens (h : s.MemoriesFit) {ts : List Token} (hts : ts.length ≤ 32768) :
    (s.setTokens ts).MemoriesFit :=
  { h with tok := h.tok.writeRun 0 _ (by simpa using hts) }

theorem setLens (h : s.MemoriesFit) (a : Alphabet) {lens : List Nat} (hl : lens.length ≤ a.nlen) :
    (s.setLens a lens).MemoriesFit := by
  cases a with
  | ll => exact { h with lenLL := h.lenLL.writeRun 0 _ (by simpa [Alphabet.nlen] using hl) }
  | d => exact { h with lenD := h.lenD.writeRun 0 _ (by simpa [Alphabet.nlen] using hl) }
  | cl => exact { h with lenCL := h.lenCL.writeRun 0 _ (by simpa [Alphabet.nlen] using hl) }

theorem setCodes (h : s.MemoriesFit) (a : Alphabet) {codes : List Nat}
    (hl : codes.length ≤ a.nlen) : (s.setCodes a codes).MemoriesFit := by
  cases a with
  | ll => exact { h with codeLL := h.codeLL.writeRun 0 _ (by simpa [Alphabet.nlen] using hl) }
  | d => exact { h with codeD := h.codeD.writeRun 0 _ (by simpa [Alphabet.nlen] using hl) }
  | cl => exact { h with codeCL := h.codeCL.writeRun 0 _ (by simpa [Alphabet.nlen] using hl) }

theorem setDtbl (h : s.MemoriesFit) (a : Alphabet) (t : DecTable) :
    (s.setDtbl a t).MemoriesFit := by
  cases a <;> exact { h with }

theorem clearCursors (h : s.MemoriesFit) : s.clearCursors.MemoriesFit := { h with obuf := rfl }

theorem dropTables (h : s.MemoriesFit) : s.dropTables.MemoriesFit :=
  { h with
    freqLL := Memory.fits_unspecified _ _, freqD := Memory.fits_unspecified _ _
    freqCL := Memory.fits_unspecified _ _, lenLL := Memory.fits_unspecified _ _
    lenD := Memory.fits_unspecified _ _, lenCL := Memory.fits_unspecified _ _
    codeLL := Memory.fits_unspecified _ _, codeD := Memory.fits_unspecified _ _
    codeCL := Memory.fits_unspecified _ _ }

theorem keepLens {w n : Nat} {m : Memory w} (h : m.Fits n) (k : ErrorKeep) (a : Alphabet)
    (tag : Nat) : (keepLens k a m tag).Fits n := by
  unfold Machine.keepLens
  split
  · exact h
  · exact Memory.fits_unspecified _ _

theorem raise (h : s.MemoriesFit) (k : ErrorKeep) (e : HwError) : (s.raise k e).MemoriesFit := by
  unfold State.raise
  split
  · exact { h with }
  · exact { h with
      obuf := Memory.wf_keepBelow _ _ _ h.obuf
      lenLL := keepLens h.lenLL _ _ _
      lenD := keepLens h.lenD _ _ _
      lenCL := keepLens h.lenCL _ _ _ }

end State.MemoriesFit

/-! ### The invariant between commands and inside a decode command -/

/-- The clauses of `State.inv`, named. -/
theorem inv_iff (s : State) :
    s.inv = true ↔ s.MemoriesFit ∧ (s.status = .error ↔ s.err.isSome = true) ∧
      (s.status = .busy ↔ s.phase ≠ .idle) ∧ s.ntok ≤ 32768 ∧ phaseOk s.phase = true ∧
      (s.phase = .idle ∨ s.wpos % 8 = 0) := by
  have agree : ∀ a b : Bool, (a == b) = true ↔ (a = true ↔ b = true) := by decide
  simp only [State.inv, State.flagsOk, Bool.and_eq_true, Bool.or_eq_true, decide_eq_true_eq,
    memoriesOk_iff, agree, beq_iff_eq, bne_iff_ne, and_assoc]

/-- `State.inv` inside a decode command. -/
structure State.Running (s : State) : Prop where
  memories : s.MemoriesFit
  tokens : s.ntok ≤ 32768
  busy : s.status = .busy
  noError : s.err = none
  active : s.phase ≠ .idle
  mode : phaseOk s.phase = true
  aligned : s.wpos % 8 = 0

theorem running_iff (s : State) : s.Running ↔ s.inv = true ∧ s.phase ≠ .idle := by
  rw [inv_iff]
  constructor
  · rintro ⟨hmem, htok, hbusy, herr, hact, hmode, hal⟩
    exact ⟨⟨hmem, by simp [hbusy, herr], by simp [hbusy, hact], htok, hmode, .inr hal⟩, hact⟩
  · rintro ⟨⟨hmem, herr, hbusy, htok, hmode, hal⟩, hact⟩
    have hb := hbusy.2 hact
    exact ⟨hmem, htok, hb, by simpa [hb] using herr, hact, hmode, hal.resolve_left hact⟩

/-- The end of a command: whatever state its work left, the invariant holds with `DONE` and no error. -/
theorem inv_of_done {s : State} (hm : s.MemoriesFit) (ht : s.ntok ≤ 32768) (hs : s.status = .done)
    (he : s.err = none) (hp : s.phase = .idle) : s.inv = true := by
  rw [inv_iff]
  exact ⟨hm, by simp [hs, he], by simp [hs, hp], ht, by rw [hp]; rfl, .inl hp⟩

/-- An error ends the command, with the invariant (R352). -/
theorem inv_of_raise {s : State} (hm : s.MemoriesFit) (ht : s.ntok ≤ 32768) (hp : s.phase = .idle)
    (k : ErrorKeep) (e : HwError) : (s.raise k e).inv = true := by
  rw [inv_iff]
  exact ⟨hm.raise k e, by simp, by simp [hp], by simpa using ht, by simp [hp, phaseOk],
    .inl (by simpa using hp)⟩

/-- Every index of `LEN_CL` that `CLORD` names is one (R109). -/
theorem clOrder_lt (j : Nat) : clOrder.getD j 0 < 19 := by
  by_cases hj : j < 19
  · interval_cases j <;> decide
  · rw [List.getD_eq_default _ _ (by simpa [clOrder] using hj)]
    decide

theorem length_fixedLenLL : fixedLenLL.length = 288 := by
  simp only [fixedLenLL, List.length_append, List.length_replicate]

theorem length_fixedLenD : fixedLenD.length = 32 := by
  simp only [fixedLenD, List.length_replicate]

namespace State.Running
variable {s : State}

theorem inv (h : s.Running) : s.inv = true := ((running_iff s).1 h).1

/-- The next mode of the command. -/
theorem enter (h : s.Running) {p : Phase} (hok : phaseOk p = true) (hp : p ≠ .idle) :
    { s with phase := p }.Running :=
  { memories := { h.memories with }, tokens := h.tokens, busy := h.busy, noError := h.noError
    active := hp, mode := hok, aligned := h.aligned }

theorem skip (h : s.Running) (n : Nat) : (s.skip n).Running :=
  { h with memories := { h.memories with } }

theorem alignR (h : s.Running) : s.alignR.Running := { h with memories := { h.memories with } }

theorem setRun (h : s.Running) (r : DecodeRun) : { s with run := r }.Running :=
  { h with memories := { h.memories with } }

theorem setLens (h : s.Running) (a : Alphabet) {lens : List Nat} (hl : lens.length ≤ a.nlen) :
    (s.setLens a lens).Running :=
  { memories := h.memories.setLens a hl, tokens := by simpa using h.tokens
    busy := by simpa using h.busy, noError := by simpa using h.noError
    active := by simpa using h.active, mode := by simpa using h.mode
    aligned := by simpa using h.aligned }

theorem setDtbl (h : s.Running) (a : Alphabet) (t : DecTable) : (s.setDtbl a t).Running :=
  { memories := h.memories.setDtbl a t, tokens := by simpa using h.tokens
    busy := by simpa using h.busy, noError := by simpa using h.noError
    active := by simpa using h.active, mode := by simpa using h.mode
    aligned := by simpa using h.aligned }

/-- One length of the code-length code written (R277). -/
theorem setClLen (h : s.Running) (v : BitVec 3) (j : Nat) :
    { s with lenCL := s.lenCL.write (clOrder.getD j 0) v }.Running :=
  { h with memories := { h.memories with lenCL := h.memories.lenCL.write v (clOrder_lt j) } }

theorem outBytes (h : s.Running) (bs : List Byte) : (s.outBytes bs).Running :=
  { memories := h.memories.outBytes bs, tokens := by simpa using h.tokens
    busy := by simpa using h.busy, noError := by simpa using h.noError
    active := by simpa using h.active, mode := by simpa using h.mode
    aligned := by have := h.aligned; rw [State.outBytes_wpos]; omega }

theorem copyBytes (h : s.Running) (dist n : Nat) : (copyBytes dist n s).Running := by
  induction n generalizing s with
  | zero => exact h
  | succ n ih => exact ih (h.outBytes _)

theorem raiseDecode (h : s.Running) (e : HwError) : (s.raiseDecode e).inv = true := by
  rw [inv_iff]
  exact ⟨{ h.memories.raise s.decodeKeep e with }, by simp, by simp, by simpa using h.tokens, rfl,
    .inl rfl⟩

theorem endBlock (h : s.Running) : s.endBlock.inv = true := by
  rcases endBlock_cases s with ⟨-, he⟩ | ⟨-, -, he⟩ | ⟨-, -, -, he⟩ | ⟨-, -, -, he⟩ <;> rw [he]
  · exact inv_of_done { h.memories.dropTables with } h.tokens rfl h.noError rfl
  · exact (h.enter rfl (by simp)).inv
  · exact (h.alignR.enter rfl (by simp)).inv
  · exact inv_of_done { h.memories.dropTables with } h.tokens rfl h.noError rfl

/-- The lengths of a dynamic block fill their tables exactly (R279). -/
theorem loadDynamic (h : s.Running) {nl nd : Nat} {seq : List Nat} {t : State}
    (hlen : seq.length = nl + nd) (hnl : nl ≤ 286) (hnd : nd ≤ 30)
    (hl : s.loadDynamic nl seq = .ok t) : t.Running := by
  rcases loadDynamic_cases nl seq s with he | ⟨ll, d, -, -, he, hll, hd⟩ <;> rw [he] at hl
  · cases hl
  · cases hl
    have hlll : ll.length ≤ Alphabet.ll.nlen := by simp [hll, Alphabet.nlen]; omega
    have hdl : d.length ≤ Alphabet.d.nlen := by simp [hd, Alphabet.nlen]; omega
    exact ((((h.setLens .ll hlll).setLens .d hdl).setDtbl .ll _).setDtbl .d _).enter rfl (by simp)

theorem loadFixed (h : s.Running) : s.loadFixed.Running :=
  ((((h.setLens .ll length_fixedLenLL.le).setLens .d length_fixedLenD.le).setDtbl .ll _).setDtbl .d
    _).enter rfl (by simp)

end State.Running

/-- A code-length symbol adds lengths of at most 15 (R109). -/
theorem expandPair_le {seq : List Nat} (hseq : ∀ n ∈ seq, n ≤ 15) (p : Nat × Nat) :
    ∀ n ∈ expandPair seq p, n ≤ 15 := by
  have hlast : seq.getLastD 0 ≤ 15 := by
    rcases List.eq_nil_or_concat seq with rfl | ⟨l, m, rfl⟩
    · simp
    · simpa using hseq m (by simp)
  intro n hn
  unfold expandPair at hn
  rcases List.mem_append.1 hn with hn | hn
  · exact hseq n hn
  · split_ifs at hn <;> simp only [List.mem_singleton, List.mem_replicate] at hn <;> omega

/-- Every element step keeps the invariant. -/
theorem inv_of_move {s t : State} (hs : s.Running) (h : DecodeMove s t) : t.inv = true := by
  have hmode := hs.mode
  cases h with
  | raised e => exact hs.raiseDecode e
  | zlibHdr => exact ((hs.skip 16).enter rfl (by simp)).inv
  | storedHeader f => exact (((hs.skip 3).setRun _).enter rfl (by simp)).inv
  | fixedHeader f => exact ((hs.skip 3).setRun _).loadFixed.inv
  | dynamicHeader f => exact (((hs.skip 3).setRun _).enter rfl (by simp)).inv
  | reservedHeader f => exact ((hs.skip 3).setRun _).raiseDecode _
  | storedLen len =>
    have hlen : phaseOk (.storedData len.toNat) = true := by
      have := len.isLt
      simp [phaseOk]
      omega
    exact ((hs.alignR.skip 32).enter hlen (by simp)).inv
  | storedData payload => exact ((hs.skip _).outBytes _).endBlock
  | dynHdr nl nd nc hp hr hnl hnl' hnd hnd' hnc hnc' =>
    have hok : phaseOk (.dynClLen nl nd nc 0) = true := by simp [phaseOk]; omega
    exact (((hs.skip 14).setLens .cl (by decide)).enter hok (by simp)).inv
  | dynClLen v nl nd nc j hp hr hj =>
    rw [hp] at hmode
    have hok : phaseOk (.dynClLen nl nd nc (j + 1)) = true := by
      simp only [phaseOk, Bool.and_eq_true, decide_eq_true_eq] at hmode ⊢
      omega
    exact ((hs.skip 3).setClLen v j |>.enter hok (by simp)).inv
  | dynClLast v nl nd nc j lens hp =>
    rw [hp] at hmode
    have hok : phaseOk (.dynLens nl nd []) = true := by
      simp only [phaseOk, Bool.and_eq_true, decide_eq_true_eq] at hmode ⊢
      simp
      omega
    exact ((((hs.skip 3).setClLen v j).setDtbl .cl _).enter hok (by simp)).inv
  | codeLength k n x nl nd seq hp hr hlen =>
    rw [hp] at hmode
    simp only [phaseOk, Bool.and_eq_true, decide_eq_true_eq, List.all_eq_true] at hmode
    obtain ⟨⟨hcounts, -⟩, hseq⟩ := hmode
    have hok : phaseOk (.dynLens nl nd (expandPair seq (k, x))) = true := by
      simp only [phaseOk, Bool.and_eq_true, decide_eq_true_eq, List.all_eq_true]
      exact ⟨⟨hcounts, hlen⟩, expandPair_le hseq _⟩
    exact ((hs.skip _).enter hok (by simp)).inv
  | lastCodeLength k n x nl nd seq t hp hr hlen hl =>
    rw [hp] at hmode
    simp only [phaseOk, Bool.and_eq_true, decide_eq_true_eq] at hmode
    exact ((hs.skip _).loadDynamic hlen (by omega) (by omega) hl).inv
  | literal k b n => exact ((hs.skip n).outBytes _).inv
  | endOfBlock k n => exact (hs.skip n).endBlock
  | lengthCode k sym n hp hr hlo hhi =>
    exact ((hs.skip n).enter (by simp [phaseOk, hlo, hhi]) (by simp)).inv
  | lengthExtra k j len hp hr hlo hhi =>
    exact ((hs.skip _).enter (by simp [phaseOk, hlo, hhi]) (by simp)).inv
  | distCode k len d n hp hr hd =>
    rw [hp] at hmode
    have hok : phaseOk (.distExtra k len d) = true := by
      simp only [phaseOk, Bool.and_eq_true, decide_eq_true_eq] at hmode ⊢
      exact ⟨hmode, hd⟩
    exact ((hs.skip n).enter hok (by simp)).inv
  | copy k len d dist => exact (((hs.skip _).copyBytes _ _).enter rfl (by simp)).inv
  | zlibAdler => exact inv_of_done { hs.memories.dropTables with } hs.tokens rfl hs.noError rfl

theorem inv_of_elementStep {s t : State} (hs : s.inv = true) (hp : s.phase ≠ .idle)
    (h : elementStep s = .next t) : t.inv = true :=
  inv_of_move ((running_iff s).2 ⟨hs, hp⟩) (elementStep_move h)

end Sys2Proof.Machine

/-! ## What a command can do

`BodyKeeps` is what the work of every command but `DECBLK` and `DECOMPRESS` keeps; `CommandMove` lists
the next states of a command (spec/30_encoding.md R92, R95), and `exec_move` says there are no others. -/

namespace Sys2Proof.Machine

/-! ### What the body of a command keeps -/

/-- What the work of a command keeps between its start and its end: the flags, the mode, the input's
length, the form of the spaces, the bound of `NTOK` and the bound of the read cursor. -/
structure BodyKeeps (s u : State) : Prop where
  err : u.err = s.err
  phase : u.phase = s.phase
  ilen : u.ilen = s.ilen
  memories : s.MemoriesFit → u.MemoriesFit
  tokens : s.ntok ≤ 32768 → u.ntok ≤ 32768
  cursor : s.rpos ≤ 8 * s.ilen → u.rpos ≤ 8 * s.ilen

namespace BodyKeeps
variable {s u v : State}

theorem refl (s : State) : BodyKeeps s s := ⟨rfl, rfl, rfl, id, id, id⟩

theorem trans (h : BodyKeeps s u) (h' : BodyKeeps u v) : BodyKeeps s v where
  err := h'.err.trans h.err
  phase := h'.phase.trans h.phase
  ilen := h'.ilen.trans h.ilen
  memories := h'.memories ∘ h.memories
  tokens := h'.tokens ∘ h.tokens
  cursor hs := h.ilen ▸ h'.cursor (h.ilen.symm ▸ h.cursor hs)

/-- Any results may be left in the result registers and in `ADLER`. -/
theorem results (h : BodyKeeps s u) (r0 r1 a : BitVec 32) :
    BodyKeeps s { u with res0 := r0, res1 := r1, adler := a } :=
  { h with memories := fun hs => { h.memories hs with } }

theorem appendBits (s : State) (bits : List Bool) : BodyKeeps s (s.appendBits bits) :=
  ⟨by simp, by simp, by simp, fun h => h.appendBits bits, by simp, by simp⟩

theorem setTokens (s : State) {ts : List Token} (hts : ts.length ≤ 32768) :
    BodyKeeps s (s.setTokens ts) :=
  ⟨rfl, rfl, rfl, fun h => h.setTokens hts, fun _ => hts, id⟩

/-- The token buffer of a block that may be written without tokens (R241). -/
theorem setTokens_if (s : State) (tokenised : Bool) {ts : List Token} (hts : ts.length ≤ 32768) :
    BodyKeeps s (if tokenised then s.setTokens (if tokenised then ts else []) else s) := by
  cases tokenised
  · exact .refl s
  · exact .setTokens s hts

theorem setLens (s : State) (a : Alphabet) {lens : List Nat} (hl : lens.length ≤ a.nlen) :
    BodyKeeps s (s.setLens a lens) :=
  ⟨by simp, by simp, by simp, fun h => h.setLens a hl, by simp, by simp⟩

theorem setCodes (s : State) (a : Alphabet) {codes : List Nat} (hl : codes.length ≤ a.nlen) :
    BodyKeeps s (s.setCodes a codes) :=
  ⟨by simp, by simp, by simp, fun h => h.setCodes a hl, by simp, by simp⟩

theorem setDtbl (s : State) (a : Alphabet) (t : DecTable) : BodyKeeps s (s.setDtbl a t) :=
  ⟨by simp, by simp, by simp, fun h => h.setDtbl a t, by simp, by simp⟩

theorem dropTables (s : State) : BodyKeeps s s.dropTables :=
  ⟨rfl, rfl, rfl, fun h => h.dropTables, id, id⟩

theorem clearCursors (s : State) : BodyKeeps s s.clearCursors :=
  ⟨rfl, rfl, rfl, fun h => h.clearCursors, fun _ => Nat.zero_le _, fun _ => Nat.zero_le _⟩

theorem alignW (s : State) : BodyKeeps s s.alignW :=
  ⟨rfl, rfl, rfl, fun h => { h with }, id, id⟩

/-- The next byte boundary is within the input, which is whole bytes (R146). -/
theorem alignR (s : State) : BodyKeeps s s.alignR :=
  ⟨rfl, rfl, rfl, fun h => { h with }, id, fun h => by rw [State.alignR_rpos]; omega⟩

theorem skip (s : State) {n : Nat} (hn : n ≤ s.remaining) : BodyKeeps s (s.skip n) :=
  ⟨rfl, rfl, rfl, fun h => { h with }, id, fun h => by
    rw [State.remaining_eq] at hn; rw [State.skip_rpos]; omega⟩

end BodyKeeps

/-! ### Sizes of what the commands write -/

@[simp] theorem length_codeLengths (a : Alphabet) (freqs : List Nat) :
    (codeLengths a freqs).length = a.nlen := by simp [codeLengths]

@[simp] theorem length_lens (s : State) (a : Alphabet) : (s.lens a).length = a.nlen := by
  simp [State.lens]

theorem length_assignCodes (next lens : List Nat) :
    (assignCodes next lens).length = lens.length := by
  induction lens generalizing next with
  | nil => rfl
  | cons n ls ih =>
    unfold assignCodes
    split <;> simp [ih]

@[simp] theorem length_canonicalCodes (maxBits : Nat) (lens : List Nat) :
    (canonicalCodes maxBits lens).length = lens.length := length_assignCodes _ _

/-- Every token stands for at least one byte (R221). -/
theorem length_tokenizeFrom_le (cfg : MatchConfig) (inp : List Byte) (endp fuel pos : Nat) :
    (tokenizeFrom cfg inp endp fuel pos).length ≤ fuel := by
  induction fuel generalizing pos with
  | zero => simp [tokenizeFrom]
  | succ fuel ih =>
    unfold tokenizeFrom
    split
    · simp
    · split
      · simpa using ih _
      · simp only
        split_ifs <;> simpa using ih _

theorem length_tokenizeChunk_le (cfg : MatchConfig) (inp : List Byte) (start endp : Nat) :
    (tokenizeChunk cfg inp start endp).length ≤ endp - start :=
  length_tokenizeFrom_le _ _ _ _ _

theorem chunkRangeOk_iff (s : State) : chunkRangeOk s = true ↔
    s.arg0.toNat ≤ s.arg1.toNat ∧ s.arg1.toNat ≤ s.ilen ∧
      s.arg1.toNat - s.arg0.toNat ≤ 32768 := by
  simp [chunkRangeOk, chunkBytes, and_assoc]

/-! ### The encoder's blocks -/

/-- `EncodeBlock` leaves the tokens of its chunk, if it tokenises at all, and appends bits (R241). -/
theorem encodeBlock_keeps (inp : List Byte) {start endp : Nat} (final : Bool) (sel : Nat)
    (s : State) (hlen : endp - start ≤ 32768) :
    BodyKeeps s (encodeBlock inp start endp final sel s).state := by
  unfold encodeBlock
  simp only
  refine .trans ?_ (.appendBits _ _)
  exact .setTokens_if s _ (Nat.le_trans (length_tokenizeChunk_le _ _ _ _) hlen)

theorem compressChunks_keeps (inp : List Byte) (n start : Nat) (s : State) :
    BodyKeeps s (compressChunks inp n start s) := by
  induction n generalizing start s with
  | zero => exact .refl s
  | succ n ih =>
    unfold compressChunks
    have hblock := encodeBlock_keeps inp (start := start) (endp := min (start + chunkBytes) s.ilen)
      (decide (min (start + chunkBytes) s.ilen = s.ilen)) 3 s (by unfold chunkBytes; omega)
    simp only
    split
    · exact hblock
    · exact hblock.trans (ih _ _)

theorem compressStream_keeps (s : State) : BodyKeeps s s.compressStream := by
  unfold State.compressStream
  simp only
  refine .trans ?_ (.dropTables _)
  have blocks : ∀ a, BodyKeeps s a →
      BodyKeeps s (compressChunks s.inputBytes (s.ilen / chunkBytes + 1) 0 a).alignW :=
    fun a ha => (ha.trans (compressChunks_keeps _ _ _ _)).trans (.alignW _)
  split
  · exact ((blocks _ ((BodyKeeps.clearCursors s).trans (.appendBits _ _))).trans
      (.appendBits _ _)).results _ _ _
  · exact blocks _ (.clearCursors s)

/-! ### The next states of a command -/

/-- The next states of a command: the end of its work, an error it raised, or what the elements of a
decode command came to; a pseudo-command sets `CFG_FRAMING` first (R92, R95, R270, R310). -/
inductive CommandMove : State → State → Prop
  | done {s : State} (u : State) : BodyKeeps s.begin u → CommandMove s u.finish
  | failed {s : State} (k : ErrorKeep) (e : HwError) : CommandMove s (s.begin.raise k e)
  | block {s t : State} (n : Nat) : s.wpos % 8 = 0 → runElements n s.begin.startBlock = .next t →
      CommandMove s t
  | stream {s t : State} (n : Nat) : runElements n s.begin.startStream = .next t → CommandMove s t
  | framed {s t : State} (v : BitVec 32) : CommandMove (s.setFraming v) t → CommandMove s t

/-- A command whose body keeps what it should. -/
theorem command_move {k : ErrorKeep} {body : State → Except HwError State} {s t : State}
    (hbody : ∀ u, body s.begin = .ok u → BodyKeeps s.begin u) (h : command k body s = .next t) :
    CommandMove s t := by
  rcases command_next.1 h with ⟨u, hu, rfl⟩ | ⟨e, -, rfl⟩
  · exact .done u (hbody u hu)
  · exact .failed k e

section
variable {s t : State}

theorem execBitinit_move (h : execBitinit s = .next t) : CommandMove s t :=
  command_move (fun u hu => by cases hu; exact .clearCursors _) h

theorem execWrbits_move (h : execWrbits s = .next t) : CommandMove s t :=
  command_move (fun u hu => by split_ifs at hu; cases hu; exact .appendBits _ _) h

theorem execRdbits_move (h : execRdbits s = .next t) : CommandMove s t := by
  refine command_move (fun u hu => ?_) h
  split_ifs at hu
  rcases readBits_cases s.begin.arg0.toNat s.begin with ⟨-, he⟩ | ⟨hn, he⟩ <;> rw [he] at hu
  · cases hu
  · cases hu
    exact (BodyKeeps.skip _ hn).results _ _ _

theorem execAlignw_move (h : execAlignw s = .next t) : CommandMove s t :=
  command_move (fun u hu => by cases hu; exact .alignW _) h

theorem execAlignr_move (h : execAlignr s = .next t) : CommandMove s t :=
  command_move (fun u hu => by cases hu; exact .alignR _) h

theorem execReservedCmd_move {op : BitVec 8} (h : execReservedCmd op s = .next t) :
    CommandMove s t :=
  command_move (fun u hu => by cases hu) h

theorem execHbuild_move (h : execHbuild s = .next t) : CommandMove s t := by
  refine command_move (fun u hu => ?_) h
  split at hu <;> cases hu
  exact .setLens _ _ (by simp)

theorem execHcanon_move (h : execHcanon s = .next t) : CommandMove s t := by
  refine command_move (fun u hu => ?_) h
  split at hu
  · cases hu
  · split_ifs at hu
    cases hu
    exact .setCodes _ _ (by simp)

theorem execHput_move (h : execHput s = .next t) : CommandMove s t := by
  refine command_move (fun u hu => ?_) h
  split at hu
  · cases hu
  · simp only at hu
    split_ifs at hu
    cases hu
    exact .appendBits _ _

theorem execHdbuild_move (h : execHdbuild s = .next t) : CommandMove s t := by
  refine command_move (fun u hu => ?_) h
  split at hu
  · cases hu
  · next a _ =>
    rcases buildDecoder_cases a (s.begin.lens a) s.begin with ⟨-, he⟩ | ⟨-, he⟩ <;> rw [he] at hu
    · cases hu
      exact .setDtbl _ _ _
    · cases hu

theorem execHdsym_move (h : execHdsym s = .next t) : CommandMove s t := by
  refine command_move (fun u hu => ?_) h
  split at hu
  · cases hu
  · split at hu <;> cases hu
    next hsym => exact (BodyKeeps.skip _ (decodeSym_le hsym)).results _ _ _

theorem execMfind_move (h : execMfind s = .next t) : CommandMove s t := by
  refine command_move (fun u hu => ?_) h
  split_ifs at hu
  split at hu <;> cases hu <;> exact (BodyKeeps.refl _).results _ _ _

theorem execTokenize_move (h : execTokenize s = .next t) : CommandMove s t := by
  refine command_move (fun u hu => ?_) h
  split_ifs at hu with hok
  cases hu
  obtain ⟨-, -, hlen⟩ := (chunkRangeOk_iff _).1 hok.2
  exact .setTokens _ (Nat.le_trans (length_tokenizeChunk_le _ _ _ _) hlen)

theorem execEncblk_move (h : execEncblk s = .next t) : CommandMove s t := by
  refine command_move (fun u hu => ?_) h
  split_ifs at hu with hok
  cases hu
  obtain ⟨-, -, hlen⟩ := (chunkRangeOk_iff _).1 hok.2.1
  exact ((encodeBlock_keeps _ _ _ _ hlen).trans (.dropTables _)).results _ _ _

theorem execAdler32_move (h : execAdler32 s = .next t) : CommandMove s t :=
  command_move (fun u hu => by cases hu; exact (BodyKeeps.refl _).results _ _ _) h

theorem execCompress_move (h : execCompress s = .next t) : CommandMove s t :=
  command_move (fun u hu => by split_ifs at hu; cases hu; exact compressStream_keeps _) h

theorem execDecblk_move (h : execDecblk s = .next t) : CommandMove s t := by
  unfold execDecblk at h
  split_ifs at h with hok
  · exact .block _ hok.2 h
  · cases h; exact .failed _ _

theorem execDecompress_move (h : execDecompress s = .next t) : CommandMove s t := by
  unfold execDecompress at h
  split_ifs at h
  · exact .stream _ h
  · cases h; exact .failed _ _

/-- Everything a command or a pseudo-command can do. -/
theorem exec_move {i : Instr} (hi : (encodeHost i).isSome = true) (h : exec i s = .next t) :
    CommandMove s t := by
  cases i with
  | compress => exact execCompress_move h
  | decompress => exact execDecompress_move h
  | bitinit => exact execBitinit_move h
  | wrbits => exact execWrbits_move h
  | rdbits => exact execRdbits_move h
  | alignw => exact execAlignw_move h
  | alignr => exact execAlignr_move h
  | hbuild => exact execHbuild_move h
  | hcanon => exact execHcanon_move h
  | hput => exact execHput_move h
  | hdbuild => exact execHdbuild_move h
  | hdsym => exact execHdsym_move h
  | mfind => exact execMfind_move h
  | tokenize => exact execTokenize_move h
  | encblk => exact execEncblk_move h
  | decblk => exact execDecblk_move h
  | adler32 => exact execAdler32_move h
  | reservedCmd op => exact execReservedCmd_move (op := op) h
  | zcompress => exact .framed 1 (execCompress_move h)
  | zdecompress => exact .framed 1 (execDecompress_move h)
  | rawcompress => exact .framed 0 (execCompress_move h)
  | rawdecompress => exact .framed 0 (execDecompress_move h)
  | _ => cases hi

end
end Sys2Proof.Machine

/-! ## The host's writes -/

namespace Sys2Proof.Machine

/-- A write to the CSR file changes configuration, operands and `ILEN` alone (R22). -/
theorem csrWrite_frame {n v : Nat} {s t : State} (h : s.csrWrite n v = .ok t) :
    t = { s with
      cfgLevel := t.cfgLevel, cfgWbits := t.cfgWbits, cfgStrategy := t.cfgStrategy
      cfgFraming := t.cfgFraming, ilen := t.ilen, arg0 := t.arg0, arg1 := t.arg1
      arg2 := t.arg2, arg3 := t.arg3 } := by
  unfold State.csrWrite at h
  split_ifs at h <;> cases h <;> rfl

/-- A write to a table or to `IBUF` changes these spaces alone (R61). -/
theorem spaceWrite_frame (sp i v : Nat) (s : State) :
    s.spaceWrite sp i v = { s with
      ibuf := (s.spaceWrite sp i v).ibuf, freqLL := (s.spaceWrite sp i v).freqLL
      freqD := (s.spaceWrite sp i v).freqD, freqCL := (s.spaceWrite sp i v).freqCL
      lenLL := (s.spaceWrite sp i v).lenLL, lenD := (s.spaceWrite sp i v).lenD
      lenCL := (s.spaceWrite sp i v).lenCL } := by
  unfold State.spaceWrite
  split <;> rfl

/-- An accepted write: a register of the CSR file, or an element in range of a space the host may write
(R42, R61). -/
theorem hostWrite_ok {sp i v : Nat} {s t : State} (h : s.hostWrite sp i v = .ok t) :
    (sp = 0 ∧ s.csrWrite i v = .ok t) ∨
      ((sp = 1 ∨ (3 ≤ sp ∧ sp ≤ 8)) ∧ (∀ n, spaceSize sp = some n → i < n) ∧
        t = s.spaceWrite sp i v) := by
  unfold State.hostWrite at h
  split_ifs at h with h0 h16 hro
  · exact .inl ⟨h0, h⟩
  · refine .inr ⟨by omega, ?_⟩
    split at h
    · next n hn =>
      split_ifs at h with hi
      cases h
      exact ⟨fun m hm => Option.some.inj (hn.symm.trans hm) ▸ hi, rfl⟩
    · next hn =>
      cases h
      exact ⟨fun m hm => (nomatch hn.symm.trans hm), rfl⟩

theorem State.MemoriesFit.spaceWrite {s : State} (h : s.MemoriesFit) {sp i : Nat} (v : Nat)
    (hi : ∀ n, spaceSize sp = some n → i < n) : (s.spaceWrite sp i v).MemoriesFit := by
  unfold State.spaceWrite
  split
  · exact { h with ibuf := Memory.wf_write _ _ _ h.ibuf }
  · exact { h with freqLL := h.freqLL.write _ (hi _ rfl) }
  · exact { h with freqD := h.freqD.write _ (hi _ rfl) }
  · exact { h with freqCL := h.freqCL.write _ (hi _ rfl) }
  · exact { h with lenLL := h.lenLL.write _ (hi _ rfl) }
  · exact { h with lenD := h.lenD.write _ (hi _ rfl) }
  · exact { h with lenCL := h.lenCL.write _ (hi _ rfl) }
  · exact h

/-! ## Every step keeps the invariant -/

/-- A write by the host keeps the invariant. -/
theorem inv_of_hostWrite {sp i v : Nat} {s t : State} (hs : s.inv = true)
    (h : s.hostWrite sp i v = .ok t) : t.inv = true := by
  rcases hostWrite_ok h with ⟨-, hw⟩ | ⟨-, hi, rfl⟩
  · rw [csrWrite_frame hw]
    exact hs
  · rw [inv_iff] at hs ⊢
    obtain ⟨hm, hrest⟩ := hs
    refine ⟨hm.spaceWrite v hi, ?_⟩
    rw [spaceWrite_frame]
    exact hrest

/-- `DECBLK` starts in the invariant: its check makes the output whole bytes (R271). -/
theorem inv_startBlock {s : State} (hm : s.MemoriesFit) (ht : s.ntok ≤ 32768)
    (hw : s.wpos % 8 = 0) : s.begin.startBlock.inv = true :=
  State.Running.inv ⟨{ hm with }, ht, rfl, rfl, by simp, rfl, hw⟩

/-- `DECOMPRESS` starts in the invariant: it clears the output (R310). -/
theorem inv_startStream {s : State} (hm : s.MemoriesFit) : s.begin.startStream.inv = true := by
  have hmode : phaseOk s.begin.startStream.phase = true ∧ s.begin.startStream.phase ≠ .idle := by
    unfold State.startStream
    split_ifs <;> simp [phaseOk]
  exact State.Running.inv
    ⟨{ hm.clearCursors with }, Nat.zero_le _, rfl, rfl, hmode.2, hmode.1, rfl⟩

/-- Every command keeps the invariant. -/
theorem inv_of_commandMove {s t : State} (h : CommandMove s t) (hs : s.inv = true)
    (hp : s.phase = .idle) : t.inv = true := by
  induction h with
  | done u hb =>
    obtain ⟨hm, -, -, ht, -⟩ := (inv_iff _).1 hs
    exact inv_of_done { hb.memories { hm with } with } (hb.tokens ht) rfl hb.err (hb.phase.trans hp)
  | failed k e =>
    obtain ⟨hm, -, -, ht, -⟩ := (inv_iff _).1 hs
    exact inv_of_raise { hm with } ht hp k e
  | block n hw hr =>
    obtain ⟨hm, -, -, ht, -⟩ := (inv_iff _).1 hs
    exact runElements_keeps (fun _ _ => inv_of_elementStep) (inv_startBlock hm ht hw) hr
  | stream n hr =>
    obtain ⟨hm, -⟩ := (inv_iff _).1 hs
    exact runElements_keeps (fun _ _ => inv_of_elementStep) (inv_startStream hm) hr
  | framed v _ ih => exact ih hs hp

/-- Settles O3: by what a step can do (`step_cases`), a command by its moves (`exec_move`) and an element
by its moves (`elementStep_move`). -/
theorem stepKeepsInvariant : Obligations.StepKeepsInvariant := by
  intro s t hs h
  rcases step_cases h with rfl | ⟨hp, i, rest, hi, he⟩ | ⟨x, rest, ha⟩ | ⟨hp, he⟩
  · exact hs
  · exact inv_of_commandMove (exec_move hi he) hs hp
  · rcases hostAccess_next ha with ⟨sp, i, v, hw⟩ | ⟨v, rfl⟩
    · exact inv_of_hostWrite (s := { s with host := rest }) hs hw
    · exact hs
  · exact inv_of_elementStep hs hp he

/-! ## Every step keeps the read cursor within the input -/

/-- The read cursor is within the input, and the tables by which the decoder moves it are the ones the
mode needs (R26, R275). -/
structure State.ReadsWithin (s : State) : Prop where
  fixed : s.FixedLoaded
  cursor : s.rpos ≤ 8 * s.ilen

/-- In a mode that reads no fixed code nothing is asked of the tables. -/
theorem State.FixedLoaded.of_mode {s : State} (h : readsFixed s.phase = false) : s.FixedLoaded :=
  fun hr => by rw [h] at hr; cases hr

/-- From one mode of the fixed code to the next the tables stay. -/
theorem State.FixedLoaded.of_kept {s t : State} (hs : s.FixedLoaded)
    (hr : readsFixed t.phase = true → readsFixed s.phase = true) (hll : t.dtblLL = s.dtblLL)
    (hd : t.dtblD = s.dtblD) : t.FixedLoaded :=
  fun h => by rw [hll, hd]; exact hs (hr h)

@[simp] theorem endBlock_ilen (s : State) : s.endBlock.ilen = s.ilen := by
  rcases endBlock_cases s with ⟨-, he⟩ | ⟨-, -, he⟩ | ⟨-, -, -, he⟩ | ⟨-, -, -, he⟩ <;> rw [he] <;> rfl

/-- The end of a block leaves the modes that read a code. -/
theorem readsFixed_endBlock (s : State) : readsFixed s.endBlock.phase = false := by
  rcases endBlock_cases s with ⟨-, he⟩ | ⟨-, -, he⟩ | ⟨-, -, -, he⟩ | ⟨-, -, -, he⟩ <;> rw [he] <;> rfl

/-- The end of a block at most aligns the read cursor (R314). -/
theorem endBlock_rpos_le {s : State} (h : s.rpos ≤ 8 * s.ilen) : s.endBlock.rpos ≤ 8 * s.ilen := by
  have halign : s.alignR.rpos ≤ 8 * s.ilen := (BodyKeeps.alignR s).cursor h
  rcases endBlock_cases s with ⟨-, he⟩ | ⟨-, -, he⟩ | ⟨-, -, -, he⟩ | ⟨-, -, -, he⟩ <;> rw [he]
  · exact h
  · exact h
  · exact halign
  · exact halign

theorem readsWithin_endBlock {s : State} (h : s.rpos ≤ 8 * s.ilen) : s.endBlock.ReadsWithin :=
  ⟨.of_mode (readsFixed_endBlock s), by simpa using endBlock_rpos_le h⟩

theorem readsWithin_raiseDecode {s : State} (h : s.rpos ≤ 8 * s.ilen) (e : HwError) :
    (s.raiseDecode e).ReadsWithin :=
  ⟨.of_mode rfl, by rw [State.raiseDecode_ilen]; exact raise_rpos_le s.decodeKeep e s h⟩

theorem readsWithin_loadDynamic {nl : Nat} {seq : List Nat} {s t : State}
    (h : s.rpos ≤ 8 * s.ilen) (hl : s.loadDynamic nl seq = .ok t) : t.ReadsWithin := by
  rcases loadDynamic_cases nl seq s with he | ⟨ll, d, -, -, he, -, -⟩ <;> rw [he] at hl <;> cases hl
  exact ⟨.of_mode rfl, by simpa using h⟩

theorem copyBytes_rpos (dist n : Nat) (s : State) : (copyBytes dist n s).rpos = s.rpos := by
  rw [copyBytes_frame]

theorem copyBytes_ilen (dist n : Nat) (s : State) : (copyBytes dist n s).ilen = s.ilen := by
  rw [copyBytes_frame]

/-- Every element step keeps the read cursor within the input: an element's bits are in it. -/
theorem readsWithin_of_move {s t : State} (hs : s.ReadsWithin) (h : DecodeMove s t) :
    t.ReadsWithin := by
  obtain ⟨hfix, hcur⟩ := hs
  have skips : ∀ {n}, n ≤ s.remaining → s.rpos + n ≤ 8 * s.ilen := fun hn => by
    rw [State.remaining_eq] at hn; omega
  cases h with
  | raised e => exact readsWithin_raiseDecode hcur e
  | zlibHdr hp hr => exact ⟨.of_mode rfl, skips hr⟩
  | storedHeader f hp hr => exact ⟨.of_mode rfl, skips hr⟩
  | fixedHeader f hp hr =>
    exact ⟨fun _ => ⟨rfl, rfl⟩, by simpa [State.loadFixed] using skips hr⟩
  | dynamicHeader f hp hr => exact ⟨.of_mode rfl, skips hr⟩
  | reservedHeader f hp hr => exact readsWithin_raiseDecode (skips hr) _
  | storedLen len hp hr =>
    have hbits := skips hr
    refine ⟨.of_mode rfl, ?_⟩
    show s.alignR.rpos + 32 ≤ 8 * s.ilen
    rw [State.alignR_rpos]
    unfold alignPad at hbits
    omega
  | storedData payload hp hr => exact readsWithin_endBlock (by simpa using skips hr)
  | dynHdr nl nd nc hp hr => exact ⟨.of_mode rfl, skips hr⟩
  | dynClLen v nl nd nc j hp hr => exact ⟨.of_mode rfl, skips hr⟩
  | dynClLast v nl nd nc j lens hp hr => exact ⟨.of_mode rfl, skips hr⟩
  | codeLength k n x nl nd seq hp hr => exact ⟨.of_mode rfl, skips hr⟩
  | lastCodeLength k n x nl nd seq t hp hr hlen hl => exact readsWithin_loadDynamic (skips hr) hl
  | literal k b n hp hc =>
    exact ⟨hfix.of_kept (by simp) (by simp) (by simp), by simpa using skips (hc hfix)⟩
  | endOfBlock k n hp hc => exact readsWithin_endBlock (skips (hc hfix))
  | lengthCode k sym n hp hc =>
    exact ⟨hfix.of_kept (by rw [hp]; exact id) rfl rfl, skips (hc hfix)⟩
  | lengthExtra k j len hp hr => exact ⟨hfix.of_kept (by rw [hp]; exact id) rfl rfl, skips hr⟩
  | distCode k len d n hp hc =>
    exact ⟨hfix.of_kept (by rw [hp]; exact id) rfl rfl, skips (hc hfix)⟩
  | copy k len d dist hp hr =>
    refine ⟨hfix.of_kept (by rw [hp]; exact id) ?_ ?_, ?_⟩
    · rw [copyBytes_frame]; rfl
    · rw [copyBytes_frame]; rfl
    · simpa [copyBytes_rpos, copyBytes_ilen] using skips hr
  | zlibAdler hp hr => exact ⟨.of_mode rfl, skips hr⟩

theorem readsWithin_of_elementStep {s t : State} (hs : s.ReadsWithin) (h : elementStep s = .next t) :
    t.ReadsWithin := readsWithin_of_move hs (elementStep_move h)

/-- Every command keeps the read cursor within the input. -/
theorem cursor_of_commandMove {s t : State} (h : CommandMove s t) (hs : s.rpos ≤ 8 * s.ilen) :
    t.rpos ≤ 8 * t.ilen := by
  induction h with
  | done u hb =>
    show u.rpos ≤ 8 * u.ilen
    rw [hb.ilen]
    exact hb.cursor hs
  | failed k e => rw [State.raise_ilen]; exact raise_rpos_le k e _ hs
  | @block s _ n _ hr =>
    have start : s.begin.startBlock.ReadsWithin := ⟨.of_mode rfl, hs⟩
    exact (runElements_keeps (fun _ _ hu _ => readsWithin_of_elementStep hu) start hr).cursor
  | @stream s _ n hr =>
    have hmode : readsFixed s.begin.startStream.phase = false := by
      unfold State.startStream
      split_ifs <;> rfl
    have start : s.begin.startStream.ReadsWithin := ⟨.of_mode hmode, Nat.zero_le _⟩
    exact (runElements_keeps (fun _ _ hu _ => readsWithin_of_elementStep hu) start hr).cursor
  | framed v _ ih => exact ih hs

/-- A write by the host leaves the read cursor alone. -/
theorem hostWrite_rpos {sp i v : Nat} {s t : State} (h : s.hostWrite sp i v = .ok t) :
    t.rpos = s.rpos := by
  rcases hostWrite_ok h with ⟨-, hw⟩ | ⟨-, -, rfl⟩
  · rw [csrWrite_frame hw]
  · rw [spaceWrite_frame]

/-- Settles O6: an element step moves the cursor over bits that are in the input; in a block of the fixed
code this needs the fixed code's tables, which `ctxOk` says are loaded. -/
theorem stepKeepsReadCursor : Obligations.StepKeepsReadCursor := by
  intro s t _ hctx hs h hilen
  rcases step_cases h with rfl | ⟨hp, i, rest, hi, he⟩ | ⟨x, rest, ha⟩ | ⟨hp, he⟩
  · exact hs
  · exact cursor_of_commandMove (exec_move hi he) hs
  · rcases hostAccess_next ha with ⟨sp, i, v, hw⟩ | ⟨v, rfl⟩
    · rw [hostWrite_rpos hw, hilen]
      exact hs
    · exact hs
  · exact (readsWithin_of_elementStep ⟨fixedLoaded_of_ctxOk hctx, hs⟩ he).cursor

end Sys2Proof.Machine

/-! ## What the host reads and writes (R22, R42, R61) -/

namespace Sys2Proof.Machine

/-! ### The CSR file as a list -/

/-- The values of the CSR file by register number; `none` at the numbers R22 reserves. -/
def State.registers (s : State) : List (Option Nat) :=
  [some 0, some (statusCode s.status), some (errCode s.err), some s.cfgLevel.toNat,
    some s.cfgWbits.toNat, some s.cfgStrategy.toNat, some s.cfgFraming.toNat, some s.ilen,
    some s.olen, some s.icons, some s.rpos, some s.wpos, some s.ntok, some s.adler.toNat, none,
    none, some s.arg0.toNat, some s.arg1.toNat, some s.arg2.toNat, some s.arg3.toNat,
    some s.res0.toNat, some s.res1.toNat, some s.res2.toNat, some s.res3.toNat]

theorem csrRead_eq (s : State) (n : Nat) : s.csrRead n = s.registers[n]?.join := by
  by_cases hn : n < 24
  · interval_cases n <;> rfl
  · obtain ⟨m, rfl⟩ := Nat.exists_eq_add_of_le' (Nat.le_of_not_lt hn)
    rfl

theorem csrRead_reserved (s : State) {n : Nat} (h : n = 14 ∨ n = 15 ∨ 24 ≤ n) :
    s.csrRead n = none := by
  rcases h with rfl | rfl | h
  · rfl
  · rfl
  · rw [csrRead_eq, List.getElem?_eq_none (by simpa [State.registers] using h)]
    rfl

/-- An accepted write sets its register, truncated to 32 bits except for `ILEN`, and no other
(R22, assumption log 19). -/
theorem csrWrite_registers {n v : Nat} {s t : State} (h : s.csrWrite n v = .ok t) :
    n < 24 ∧ t.registers = s.registers.set n (some (if n = 7 then v else v % 2 ^ 32)) := by
  unfold State.csrWrite at h
  split_ifs at h <;> cases h <;> subst n <;> exact ⟨by decide, rfl⟩

theorem csrRead_csrWrite_self {n v : Nat} {s t : State} (h : s.csrWrite n v = .ok t) :
    t.csrRead n = some (if n = 7 then v else v % 2 ^ 32) := by
  obtain ⟨hn, hreg⟩ := csrWrite_registers h
  rw [csrRead_eq, hreg, List.getElem?_set_self (by simpa [State.registers] using hn)]
  rfl

theorem csrRead_csrWrite_of_ne {n m v : Nat} {s t : State} (h : s.csrWrite n v = .ok t)
    (hm : m ≠ n) : t.csrRead m = s.csrRead m := by
  rw [csrRead_eq, csrRead_eq, (csrWrite_registers h).2, List.getElem?_set_ne hm.symm]

/-- The registers R22 lets the host write. -/
theorem csrWrite_accepted (s : State) {n : Nat} (v : Nat)
    (h : (3 ≤ n ∧ n ≤ 7) ∨ (16 ≤ n ∧ n ≤ 19)) : ∃ t, s.csrWrite n v = .ok t := by
  rcases h with ⟨hlo, hhi⟩ | ⟨hlo, hhi⟩ <;> interval_cases n <;> exact ⟨_, rfl⟩

theorem csrWrite_reserved (s : State) {n : Nat} (v : Nat) (h : n = 14 ∨ n = 15 ∨ 24 ≤ n) :
    s.csrWrite n v = .error .reservedRegister := by
  unfold State.csrWrite
  iterate 9 rw [if_neg (by omega)]
  exact if_pos h

theorem csrWrite_readOnly (s : State) {n : Nat} (v : Nat)
    (h : n = 1 ∨ n = 2 ∨ (8 ≤ n ∧ n ≤ 13) ∨ (20 ≤ n ∧ n ≤ 23)) :
    s.csrWrite n v = .error .readOnlyItem := by
  unfold State.csrWrite
  iterate 10 rw [if_neg (by omega)]

/-! ### The other spaces -/

/-- The element written reads as the value modulo the element's width (R15(b), R32, R61). -/
theorem spaceRead_spaceWrite_self (s : State) {sp : Nat} (i v : Nat)
    (h : sp = 1 ∨ (3 ≤ sp ∧ sp ≤ 8)) :
    ∃ w, hostWidth sp i = some w ∧ (s.spaceWrite sp i v).spaceRead sp i = v % 2 ^ w := by
  rcases h with rfl | ⟨hlo, hhi⟩
  · exact ⟨8, rfl, by simp [State.spaceRead, State.spaceWrite, State.ibufAt, Memory.read_write_self]⟩
  · interval_cases sp <;>
      refine ⟨_, rfl, ?_⟩ <;>
      simp [State.spaceRead, State.spaceWrite, State.lenAt, Memory.read_write_self]

/-- A write to one space leaves the others alone. -/
theorem spaceRead_spaceWrite_of_space_ne (s : State) {sp sp' : Nat} (i v i' : Nat)
    (h : sp' ≠ sp) (h16 : sp' < 16) :
    (s.spaceWrite sp i v).spaceRead sp' i' = s.spaceRead sp' i' := by
  unfold State.spaceWrite
  split <;> interval_cases sp' <;> first | rfl | contradiction

/-- A write to one element leaves the others of its space alone. -/
theorem spaceRead_spaceWrite_of_index_ne (s : State) {sp i i' : Nat} (v : Nat) (h : i' ≠ i) :
    (s.spaceWrite sp i v).spaceRead sp i' = s.spaceRead sp i' := by
  unfold State.spaceWrite
  split <;> simp [State.spaceRead, State.ibufAt, State.lenAt, Memory.read_write_of_ne _ _ _ h]

theorem csrRead_spaceWrite (s : State) (sp i v n : Nat) :
    (s.spaceWrite sp i v).csrRead n = s.csrRead n := by
  rw [csrRead_eq, csrRead_eq, spaceWrite_frame]
  rfl

/-! ### Accesses -/

theorem hostRead_csr {s : State} {n v : Nat} (h : s.csrRead n = some v) :
    s.hostRead 0 n = .ok v := by
  rw [State.hostRead, if_pos rfl, h]

theorem hostRead_space (s : State) {sp i : Nat} (h0 : sp ≠ 0) (h16 : sp < 16)
    (hi : ∀ n, spaceSize sp = some n → i < n) : s.hostRead sp i = .ok (s.spaceRead sp i) := by
  rw [State.hostRead, if_neg h0, if_neg (by omega)]
  split
  · next n hn => rw [if_pos (hi n hn)]
  · rfl

/-- A read answers the same in two states that agree on what it reads. -/
theorem hostRead_congr {s t : State} {sp i : Nat} (hcsr : sp = 0 → t.csrRead i = s.csrRead i)
    (hspace : sp ≠ 0 → sp < 16 → t.spaceRead sp i = s.spaceRead sp i) :
    t.hostRead sp i = s.hostRead sp i := by
  unfold State.hostRead
  split_ifs with h0 h16
  · rw [hcsr h0]
  · rfl
  · rw [hspace h0 (by omega)]

theorem hostWrite_space (s : State) {sp i : Nat} (v : Nat) (h : sp = 1 ∨ (3 ≤ sp ∧ sp ≤ 8))
    (hi : ∀ n, spaceSize sp = some n → i < n) :
    s.hostWrite sp i v = .ok (s.spaceWrite sp i v) := by
  rw [State.hostWrite, if_neg (by omega), if_neg (by omega), if_neg (by omega)]
  split
  · next n hn => rw [if_pos (hi n hn)]
  · rfl

/-- The spaces with a bound are 3 to 15 (R61). -/
theorem spaceSize_some {sp n : Nat} (h : spaceSize sp = some n) : 3 ≤ sp ∧ sp ≤ 15 := by
  unfold spaceSize at h
  split at h <;> cases h <;> decide

theorem lt_of_spaceSize {sp i n : Nat} (h : spaceSize sp = some n) (hi : i < n) :
    ∀ m, spaceSize sp = some m → i < m :=
  fun _ hm => Option.some.inj (h.symm.trans hm) ▸ hi

/-- An element within the range of a space with a bound can be read (R61). -/
theorem hostRead_table (s : State) {sp i n : Nat} (hn : spaceSize sp = some n) (hi : i < n) :
    s.hostRead sp i = .ok (s.spaceRead sp i) := by
  obtain ⟨hlo, hhi⟩ := spaceSize_some hn
  exact hostRead_space s (by omega) (by omega) (lt_of_spaceSize hn hi)

/-- An accepted write reads back truncated to the element's width. -/
theorem hostRead_hostWrite_self {sp i v : Nat} {s t : State} (h : s.hostWrite sp i v = .ok t) :
    t.hostRead sp i = .ok (match hostWidth sp i with | some w => v % 2 ^ w | none => v) := by
  rcases hostWrite_ok h with ⟨rfl, hw⟩ | ⟨hsp, hi, rfl⟩
  · rw [hostRead_csr (csrRead_csrWrite_self hw)]
    by_cases h7 : i = 7
    · simp [hostWidth, h7]
    · simp [hostWidth, h7]
  · obtain ⟨w, hwidth, hread⟩ := spaceRead_spaceWrite_self s i v hsp
    rw [hostRead_space _ (by omega) (by omega) hi, hread, hwidth]

/-- An accepted write changes no other register and no other element. -/
theorem hostRead_hostWrite_of_ne {sp i v sp' i' : Nat} {s t : State}
    (h : s.hostWrite sp i v = .ok t) (hne : (sp', i') ≠ (sp, i)) :
    t.hostRead sp' i' = s.hostRead sp' i' := by
  rcases hostWrite_ok h with ⟨rfl, hw⟩ | ⟨hsp, hi, rfl⟩
  · refine hostRead_congr (fun h0 => csrRead_csrWrite_of_ne hw fun hi => hne (by rw [h0, hi])) ?_
    intro _ _
    rw [csrWrite_frame hw]
    rfl
  · refine hostRead_congr (fun _ => csrRead_spaceWrite _ _ _ _ _) fun _ h16 => ?_
    by_cases he : sp' = sp
    · subst he
      exact spaceRead_spaceWrite_of_index_ne s v fun hi => hne (by rw [hi])
    · exact spaceRead_spaceWrite_of_space_ne s i v i' he h16

/-- The registers the host may read have a value (R22). -/
theorem csrRead_isSome (s : State) {n : Nat} (h : n ≤ 13 ∨ (16 ≤ n ∧ n ≤ 23)) :
    ∃ v, s.csrRead n = some v := by
  rcases h with h | ⟨hlo, hhi⟩ <;> interval_cases n <;> exact ⟨_, rfl⟩

/-- The stored form of an entry gives back its fields (R34). -/
theorem entryWord_fields {e : Nat × Nat} (h : e.2 < 16) :
    entryWord e / 16 = e.1 ∧ entryWord e % 16 = e.2 := by
  unfold entryWord
  omega

/-- What the host reads is what R22, R34, R61 and R351 list. -/
theorem hostReads (s : State) : HostReads s where
  cmd := rfl
  status := by
    rw [hostRead_csr (v := statusCode s.status) rfl]
    cases s.status <;> rfl
  err := by
    rw [hostRead_csr (v := errCode s.err) rfl]
    cases s.err with
    | none => rfl
    | some e => cases e <;> rfl
  config := ⟨rfl, rfl, rfl, rfl⟩
  counts := ⟨rfl, rfl, rfl, rfl, rfl, rfl, rfl⟩
  args := ⟨rfl, rfl, rfl, rfl⟩
  results := ⟨rfl, rfl, rfl, rfl⟩
  ibuf _ := rfl
  obuf i hi := by
    rw [hostRead_space s (sp := 2) (by decide) (by decide) nofun]
    simp [State.spaceRead, hi]
  freqs := ⟨fun _ => hostRead_table s rfl, fun _ => hostRead_table s rfl,
    fun _ => hostRead_table s rfl⟩
  lens := ⟨fun _ => hostRead_table s rfl, fun _ => hostRead_table s rfl,
    fun _ => hostRead_table s rfl⟩
  codes := ⟨fun _ => hostRead_table s rfl, fun _ => hostRead_table s rfl,
    fun _ => hostRead_table s rfl⟩
  tok _ := hostRead_table s rfl
  dtbl a i hi he := by
    refine ⟨entryWord ((s.dtbl a).entry a i), ?_, entryWord_fields he⟩
    cases a <;> exact hostRead_table s rfl hi

/-- Settles O10: registers by the CSR file as a list, elements by the laws of a space, the values read by
`hostReads`. -/
theorem hostWriteThenRead : Obligations.HostWriteThenRead := by
  refine ⟨fun s t sp i v h => ⟨hostRead_hostWrite_self h,
    fun sp' i' hne => hostRead_hostWrite_of_ne h hne⟩, ?_, ?_, ?_, ?_, hostReads⟩
  · intro s t sp i v h
    rw [hostAccess, h]
  · intro s sp i v h
    rw [hostAccess, h]
  · rintro s sp i v (⟨rfl, hreg⟩ | rfl | ⟨hlo, hhi, n, hn, hi⟩)
    · exact csrWrite_accepted s v hreg
    · exact ⟨_, hostWrite_space s v (.inl rfl) nofun⟩
    · exact ⟨_, hostWrite_space s v (.inr ⟨hlo, hhi⟩) (lt_of_spaceSize hn hi)⟩
  · rintro s sp i (⟨rfl, hreg⟩ | rfl | rfl | ⟨n, hn, hi⟩)
    · obtain ⟨v, hv⟩ := csrRead_isSome s hreg
      exact ⟨v, hostRead_csr hv⟩
    · exact ⟨_, hostRead_space s (by decide) (by decide) nofun⟩
    · exact ⟨_, hostRead_space s (by decide) (by decide) nofun⟩
    · exact ⟨_, hostRead_table s hn hi⟩

/-! ### Refused accesses -/

theorem hostRead_outOfRange (s : State) {sp i n : Nat} (hn : spaceSize sp = some n) (hi : n ≤ i) :
    s.hostRead sp i = .error .indexOutOfRange := by
  obtain ⟨hlo, hhi⟩ := spaceSize_some hn
  rw [State.hostRead, if_neg (by omega), if_neg (by omega), hn]
  exact if_neg (by omega)

theorem hostWrite_outOfRange (s : State) {sp i n : Nat} (v : Nat) (hn : spaceSize sp = some n)
    (hsp : sp ≤ 8) (hi : n ≤ i) : s.hostWrite sp i v = .error .indexOutOfRange := by
  obtain ⟨hlo, -⟩ := spaceSize_some hn
  rw [State.hostWrite, if_neg (by omega), if_neg (by omega), if_neg (by omega), hn]
  exact if_neg (by omega)

/-- Settles O11: each refusal is one branch of `hostRead` or `hostWrite`, in the order of their
checks. -/
theorem hostAccessRefused : Obligations.HostAccessRefused := by
  refine ⟨?_, ?_, fun s _ _ _ => hostRead_outOfRange s, fun s _ _ _ v => hostWrite_outOfRange s v,
    fun s _ v => csrWrite_readOnly s v, ?_, ?_, fun _ => step_of_busy⟩
  · intro s i v hi
    refine ⟨?_, csrWrite_reserved s v hi⟩
    rw [State.hostRead, if_pos rfl, csrRead_reserved s hi]
  · intro s sp i v hsp
    have h0 : sp ≠ 0 := by omega
    exact ⟨by rw [State.hostRead, if_neg h0, if_pos hsp],
      by rw [State.hostWrite, if_neg h0, if_pos hsp]⟩
  · intro s sp i v hsp
    rw [State.hostWrite, if_neg (by omega), if_neg (by omega), if_pos (by omega)]
  · intro s x r hx
    unfold hostAccess
    cases x <;> simp only at hx ⊢ <;> rw [hx]

/-! ## Reset -/

/-- Settles O1: every clause is a field of `State.reset`. -/
theorem resetState : Obligations.ResetState := by
  unfold Obligations.ResetState
  decide

/-- Settles O2: after reset no command runs and no table is built. -/
theorem resetKeepsInvariants : Obligations.ResetKeepsInvariants :=
  ⟨by decide, by decide, ⟨nofun, nofun, nofun⟩, trivial⟩

end Sys2Proof.Machine

/-! ## The bits `WriteBits` appends (R27, R63, R141) -/

namespace Sys2Proof

/-- The byte under construction after one more bit, bit by bit (R141). -/
theorem testBit_or_shiftLeft {acc k : Nat} (hacc : acc < 2 ^ k) (b : Bool) (p : Nat) :
    (acc ||| b.toNat <<< k).testBit p = if p < k then acc.testBit p else (decide (p = k) && b) := by
  rw [Nat.testBit_or, Nat.testBit_shiftLeft]
  rcases Nat.lt_trichotomy p k with h | rfl | h
  · simp [h, Nat.not_le.2 h]
  · cases b <;> simp [Nat.testBit_lt_two_pow hacc]
  · have hz : acc.testBit p = false :=
      Nat.testBit_lt_two_pow (Nat.lt_of_lt_of_le hacc (Nat.pow_le_pow_right (by omega) h.le))
    obtain ⟨d, rfl⟩ := Nat.exists_eq_add_of_lt h
    have hne : k + d + 1 ≠ k := by omega
    have hsub : k + d + 1 - k = d + 1 := by omega
    cases b <;> simp [hz, hne, hsub, Nat.testBit_succ]

/-- Bit `p` of a list of bytes, LSB first (R63). -/
def byteBit (bs : List Byte) (p : Nat) : Bool := (bs.getD (p / 8) 0).getLsbD (p % 8)

theorem byteBit_cons_of_lt (b : Byte) (bs : List Byte) {p : Nat} (h : p < 8) :
    byteBit (b :: bs) p = b.getLsbD p := by
  rw [byteBit, Nat.div_eq_of_lt h, Nat.mod_eq_of_lt h]
  rfl

theorem byteBit_cons_of_le (b : Byte) (bs : List Byte) {p : Nat} (h : 8 ≤ p) :
    byteBit (b :: bs) p = byteBit bs (p - 8) := by
  obtain ⟨q, rfl⟩ := Nat.exists_eq_add_of_le' h
  simp [byteBit]

/-- `packBits` lays the bits out after the `k` bits already in the byte begun; the rest of the last byte
is 0. -/
theorem byteBit_packBits {acc k : Nat} (bits : List Bool) (hk : k < 8) (hacc : acc < 2 ^ k)
    (p : Nat) : byteBit (packBits acc k bits) p =
      if p < k then acc.testBit p else bits.getD (p - k) false := by
  induction bits generalizing acc k p with
  | nil =>
    have hrest : k ≤ p → acc.testBit p = false := fun h =>
      Nat.testBit_lt_two_pow (Nat.lt_of_lt_of_le hacc (Nat.pow_le_pow_right (by omega) h))
    unfold packBits
    split_ifs with h0 hp hp
    · omega
    · simp [byteBit]
    · rw [byteBit_cons_of_lt _ _ (by omega), BitVec.getLsbD_ofNat]
      simp
      omega
    · by_cases h8 : p < 8
      · rw [byteBit_cons_of_lt _ _ h8, BitVec.getLsbD_ofNat]
        simp [hrest (by omega)]
      · rw [byteBit_cons_of_le _ _ (by omega)]
        simp [byteBit]
  | cons b bs ih =>
    have hbit := testBit_or_shiftLeft hacc b
    have hacc' : acc ||| b.toNat <<< k < 2 ^ (k + 1) := by
      refine Nat.or_lt_two_pow (by rw [Nat.pow_succ]; omega) ?_
      rw [Nat.shiftLeft_eq, Nat.pow_succ, Nat.mul_comm]
      have := Bool.toNat_le b
      exact Nat.lt_of_le_of_lt (Nat.mul_le_mul_left _ this) (by have := Nat.two_pow_pos k; omega)
    have hcons : k < p → (b :: bs).getD (p - k) false = bs.getD (p - (k + 1)) false := fun h => by
      rw [show p - k = p - (k + 1) + 1 by omega]
      rfl
    unfold packBits
    simp only
    split_ifs with h7 hp hp
    · rw [byteBit_cons_of_lt _ _ (by omega), BitVec.getLsbD_ofNat, hbit]
      simp [hp]
      omega
    · rcases Nat.lt_or_ge p 8 with h8 | h8
      · obtain rfl : p = k := by omega
        rw [byteBit_cons_of_lt _ _ h8, BitVec.getLsbD_ofNat, hbit]
        simp [h8]
      · rw [byteBit_cons_of_le _ _ h8, ih (by omega) (by simp), hcons (by omega), h7]
        simp
    · rw [ih (by omega) hacc', if_pos (by omega), hbit, if_pos hp]
    · rw [ih (by omega) hacc']
      rcases Nat.lt_or_ge p (k + 1) with hp' | hp'
      · obtain rfl : p = k := by omega
        rw [if_pos hp', hbit]
        simp
      · rw [if_neg (by omega), hcons (by omega)]

end Sys2Proof

namespace Sys2Proof.Machine

/-- R27: the unwritten bits of a byte begun are 0. -/
def State.PadZero (s : State) : Prop :=
  s.wpos % 8 ≠ 0 → (s.obufAt (s.wpos / 8)).toNat < 2 ^ (s.wpos % 8)

/-- The byte at the cursor as far as it is written: nothing at a byte boundary (R141). -/
def State.begun (s : State) : Nat :=
  if s.wpos % 8 = 0 then 0 else (s.obufAt (s.wpos / 8)).toNat

theorem begun_lt {s : State} (h : s.PadZero) : s.begun < 2 ^ (s.wpos % 8) := by
  unfold State.begun
  split_ifs with h0
  · exact Nat.two_pow_pos _
  · exact h h0

/-- The bytes the bits lie in are the ones `packBits` makes. -/
theorem obufAt_appendBits {s : State} {bits : List Bool} (hb : bits ≠ []) {j : Nat}
    (hj : s.wpos / 8 + j < (s.wpos + bits.length + 7) / 8) :
    (s.appendBits bits).obufAt (s.wpos / 8 + j) =
      (packBits s.begun (s.wpos % 8) bits).getD j 0 := by
  have hlen : j < (packBits s.begun (s.wpos % 8) bits).length := by
    rw [length_packBits _ _ _ (Nat.mod_lt _ (by decide))]
    omega
  rw [State.appendBits, if_neg (by simpa using hb), State.obufAt]
  have hread := s.obuf.read_writeRun_mem (s.wpos / 8) (packBits s.begun (s.wpos % 8) bits) 2
    (s.wpos / 8 + j) (Nat.le_add_right _ _) (by omega)
  refine hread.trans ?_
  simp [List.getElem?_eq_getElem hlen]

/-- Every bit of the output after an append: before the cursor as it was, then the bits, then zeros up to
the end of the last byte (R27, R63, R141). -/
theorem outputBit_appendBits {s : State} (hpad : s.PadZero) (bits : List Bool) {p : Nat}
    (hp : p < 8 * ((s.wpos + bits.length + 7) / 8)) :
    ((s.appendBits bits).obufAt (p / 8)).getLsbD (p % 8) =
      if p < s.wpos then (s.obufAt (p / 8)).getLsbD (p % 8) else bits.getD (p - s.wpos) false := by
  -- a bit of the byte at the cursor, in terms of `begun`
  have hbegun : p / 8 = s.wpos / 8 → s.wpos % 8 ≠ 0 →
      (s.obufAt (p / 8)).getLsbD (p % 8) = s.begun.testBit (p % 8) := fun hbyte h0 => by
    rw [hbyte, State.begun, if_neg h0, BitVec.testBit_toNat]
  by_cases hbefore : p / 8 < s.wpos / 8
  · rw [obufAt_appendBits_of_outside _ _ _ (.inl hbefore), if_pos (by omega)]
  by_cases hb : bits = []
  · subst hb
    rw [appendBits_nil]
    split_ifs with hlt
    · rfl
    · rw [List.length_nil] at hp
      rw [hbegun (by omega) (by omega)]
      exact Nat.testBit_lt_two_pow (Nat.lt_of_lt_of_le (begun_lt hpad)
        (Nat.pow_le_pow_right (by decide) (by omega)))
  · obtain ⟨j, hj⟩ := Nat.exists_eq_add_of_le (Nat.le_of_not_lt hbefore)
    have hpack := byteBit_packBits bits (Nat.mod_lt s.wpos (by decide)) (begun_lt hpad)
      (8 * j + p % 8)
    rw [byteBit, show (8 * j + p % 8) / 8 = j by omega, show (8 * j + p % 8) % 8 = p % 8 by omega]
      at hpack
    rw [hj, obufAt_appendBits hb (by omega), hpack, ← hj]
    by_cases hlt : p < s.wpos
    · rw [if_pos (by omega), if_pos hlt, hbegun (by omega) (by omega),
        show 8 * j + p % 8 = p % 8 by omega]
    · rw [if_neg (by omega), if_neg hlt, show 8 * j + p % 8 - s.wpos % 8 = p - s.wpos by omega]

/-- Settles O20: each clause reads off `outputBit_appendBits` for the bits of the value. -/
theorem writtenBits : Obligations.WrittenBits := by
  intro s v n hpad
  have holen : (s.writeBits v n).olen = (s.wpos + n + 7) / 8 := by
    simp [State.olen_eq, State.writeBits]
  have hbit : ∀ p < 8 * ((s.wpos + n + 7) / 8),
      ((s.writeBits v n).obufAt (p / 8)).getLsbD (p % 8) =
        if p < s.wpos then (s.obufAt (p / 8)).getLsbD (p % 8)
        else (bitsOf v n).getD (p - s.wpos) false := fun p hp =>
    outputBit_appendBits hpad (bitsOf v n) (by rwa [length_bitsOf])
  refine ⟨by simp [State.writeBits], fun p hp => ?_, fun k hk => ?_, fun p hlo hhi => ?_,
    fun a ha => ?_⟩
  · rw [hbit p (by omega), if_pos hp]
  · rw [hbit (s.wpos + k) (by omega), if_neg (by omega), Nat.add_sub_cancel_left]
    simp [bitsOf, hk]
  · rw [holen] at hhi
    rw [hbit p hhi, if_neg (by omega), List.getD_eq_default _ _ (by rw [length_bitsOf]; omega)]
  · rw [holen] at ha
    exact obufAt_appendBits_of_outside _ _ _ (by rwa [length_bitsOf])

end Sys2Proof.Machine

/-! ## The distance symbols (R74, R107, R285) -/

namespace Sys2Proof.Machine

/-! ### The bytes a copy puts out -/

/-- Bytes outside the ones a copy puts out read as before. -/
theorem obufAt_copyBytes_of_outside (dist n : Nat) (s : State) {a : Nat}
    (h : a < s.wpos / 8 ∨ s.wpos / 8 + n ≤ a) : (copyBytes dist n s).obufAt a = s.obufAt a := by
  induction n generalizing s with
  | zero => rfl
  | succ n ih =>
    rw [copyBytes_succ, ih _ (by simp; omega)]
    exact obufAt_outBytes_of_outside _ _ _ (by simp; omega)

/-- Each byte a copy puts out equals the byte `dist` before it, which the copy itself may have put out
(R74, R285). -/
theorem obufAt_copyBytes {dist n : Nat} {s : State} (halign : s.wpos % 8 = 0) (hpos : 1 ≤ dist)
    (hle : dist ≤ s.olen) {k : Nat} (hk : k < n) :
    (copyBytes dist n s).obufAt (s.olen + k) =
      (copyBytes dist n s).obufAt (s.olen + k - dist) := by
  have holen : s.olen = s.wpos / 8 := by rw [State.olen_eq]; omega
  induction n generalizing s k with
  | zero => omega
  | succ n ih =>
    rw [copyBytes_succ]
    have hwpos : (s.outBytes [s.obufAt (s.olen - dist)]).wpos = s.wpos + 8 := State.outBytes_wpos ..
    have hnext : (s.outBytes [s.obufAt (s.olen - dist)]).olen = s.olen + 1 := by
      rw [State.olen_eq]; omega
    cases k with
    | zero =>
      rw [Nat.add_zero, obufAt_copyBytes_of_outside _ _ _ (by omega),
        obufAt_copyBytes_of_outside _ _ _ (by omega),
        obufAt_outBytes_of_outside _ _ (s.olen - dist) (by omega), holen]
      exact obufAt_outBytes [_] s 0 Nat.one_pos
    | succ k =>
      have := ih (s := s.outBytes [s.obufAt (s.olen - dist)]) (k := k) (by omega) (by omega)
        (by omega) (by omega)
      rwa [hnext, Nat.add_assoc, Nat.add_comm 1] at this

/-! ### The element of a distance symbol -/

/-- The extra value fits the symbol's extra bits (R107). -/
theorem extra_lt_of_distFields {i : Instr} {d x : Nat} (h : i.distFields = some (d, x)) :
    x < 2 ^ distExtra d := by
  cases i <;> cases h <;> first | exact Nat.two_pow_pos _ | exact BitVec.isLt _

/-- The distances a symbol reaches lie in 1..32768 (R107). -/
theorem distBase_range {d : Nat} (hd : d ≤ 29) :
    1 ≤ distBase d ∧ distBase d + 2 ^ distExtra d ≤ 32769 := by
  revert d
  decide

/-- Symbols up to 29 denote a distance: their element is `distElement` (R107, R284). -/
theorem exec_of_distFields {i : Instr} {d x : Nat} (h : i.distFields = some (d, x)) (hd : d ≤ 29)
    (s : State) : exec i s = distElement d x s := by
  cases i <;> cases h
  case dist30 => omega
  case dist31 => omega
  all_goals rfl

section
variable {d x length : Nat} {kind : BlockKind} {s : State}

/-- In its mode and with the distance in reach, the element ends in the copy (R284, R285). -/
theorem distElement_within (hp : s.phase = .distExtra kind length d)
    (hw : distBase d + x ≤ s.window) (ho : distBase d + x ≤ s.olen) :
    distElement d x s = .next
      { copyBytes (distBase d + x) length (s.skip (distExtra d)) with phase := .data kind } := by
  have hok : (s.skip (distExtra d)).copyMatch length (distBase d + x) =
      .ok (copyBytes (distBase d + x) length (s.skip (distExtra d))) :=
    if_neg (not_or.2 ⟨Nat.not_lt.2 hw, Nat.not_lt.2 ho⟩)
  simp only [distElement, hp, hok, if_true]

/-- In its mode and with the distance out of reach, the element raises before it copies a byte
(R285). -/
theorem distElement_beyond (hp : s.phase = .distExtra kind length d)
    (h : s.window < distBase d + x ∨ s.olen < distBase d + x) :
    distElement d x s = .next (s.raiseDecode .windowSizeExceeded) := by
  have herr : (s.skip (distExtra d)).copyMatch length (distBase d + x) =
      .error .windowSizeExceeded := if_pos h
  simp only [distElement, hp, herr, if_true]

end

/-- A copy after skipped bits moves both cursors and changes the output alone. -/
theorem copyBytes_skip_frame (dist n extra : Nat) (s : State) (p : Phase) :
    { copyBytes dist n (s.skip extra) with phase := p } = { s with
      rpos := s.rpos + extra, wpos := s.wpos + 8 * n
      obuf := (copyBytes dist n (s.skip extra)).obuf, phase := p } := by
  rw [copyBytes_frame dist n (s.skip extra), copyBytes_wpos]
  rfl

/-- Settles O55: the element is `distElement`, whose two outcomes are those of `CopyMatch`; the bytes of
the copy come by induction on its length. -/
theorem distanceSymbols : Obligations.DistanceSymbols := by
  intro i d x kind length s hf hd hp halign dist
  have hx := extra_lt_of_distFields hf
  obtain ⟨hbase, hmax⟩ := distBase_range hd
  have hpos : 1 ≤ dist := Nat.le_add_right_of_le hbase
  rw [exec_of_distFields hf hd]
  refine ⟨⟨hpos, by omega⟩, fun hw ho => ?_, fun hfar => ?_⟩
  · refine ⟨_, distElement_within hp hw ho, copyBytes_skip_frame .., fun k hk => ?_, fun a ha => ?_⟩
    · exact obufAt_copyBytes (s := s.skip (distExtra d)) halign hpos ho hk
    · have hout : a < s.wpos / 8 ∨ s.wpos / 8 + length ≤ a := by
        rw [State.olen_eq] at ha
        omega
      exact obufAt_copyBytes_of_outside dist length (s.skip (distExtra d)) hout
  · exact ⟨_, distElement_beyond hp hfar, keptAfterDecodeError_raiseDecode s nofun⟩

end Sys2Proof.Machine

/-! ## The codewords of accepted code lengths (R170, R171, R191)

A codeword of length `n` is the first code of that length plus the number of earlier symbols of the same
length. The codes of one length end, shifted to any greater length, at or before the first code of that
length; so no codeword starts another, and all fit their lengths when the Kraft sum allows it. -/

namespace Sys2Proof

/-! ### The first code of each length -/

/-- The first code of length `n` (R170): `2^(n − l)` for each shorter length `l` in use. -/
def firstCodeOf (lens : List Nat) (n : Nat) : Nat :=
  (lens.map fun l => if 0 < l ∧ l < n then 2 ^ (n - l) else 0).sum

@[simp] theorem firstCodeOf_one (lens : List Nat) : firstCodeOf lens 1 = 0 := by
  have none : ∀ l : Nat, ¬(0 < l ∧ l < 1) := fun l => by omega
  simp only [firstCodeOf, none, if_false]
  simp

/-- The recurrence of R170: the codes of length `n` are counted, then a bit is appended. -/
theorem firstCodeOf_succ (lens : List Nat) {n : Nat} (hn : 0 < n) :
    firstCodeOf lens (n + 1) = 2 * (firstCodeOf lens n + lens.count n) := by
  induction lens with
  | nil => rfl
  | cons l ls ih =>
    simp only [firstCodeOf, List.map_cons, List.sum_cons, List.count_cons, beq_iff_eq] at ih ⊢
    rw [ih]
    rcases Nat.lt_trichotomy l n with h | rfl | h
    · by_cases h0 : 0 < l
      · rw [if_pos ⟨h0, by omega⟩, if_pos ⟨h0, h⟩, if_neg (by omega), Nat.succ_sub h.le,
          Nat.pow_succ]
        omega
      · rw [if_neg (by omega), if_neg (by omega), if_neg (by omega)]
        omega
    · rw [if_pos ⟨hn, by omega⟩, if_neg (by omega), if_pos rfl, Nat.add_sub_cancel_left]
      omega
    · rw [if_neg (by omega), if_neg (by omega), if_neg (by omega)]
      omega

/-- The codes of length `n` end at or before the first code of any greater length, shifted. -/
theorem codes_end_le_firstCodeOf (lens : List Nat) {n k : Nat} (hn : 0 < n) :
    (firstCodeOf lens n + lens.count n) * 2 ^ (k + 1) ≤ firstCodeOf lens (n + (k + 1)) := by
  induction k with
  | zero => rw [firstCodeOf_succ lens hn]; omega
  | succ k ih =>
    rw [← Nat.add_assoc n, firstCodeOf_succ lens (by omega), Nat.pow_succ, ← Nat.mul_assoc]
    omega

/-- The codes of length `n` end within what the Kraft sum counts (R14). -/
theorem codes_end_le_kraftSum (lens : List Nat) {maxBits n : Nat} (hn : 0 < n) (h : n ≤ maxBits) :
    (firstCodeOf lens n + lens.count n) * 2 ^ (maxBits - n) ≤ kraftSum maxBits lens := by
  induction lens with
  | nil => simp [firstCodeOf]
  | cons l ls ih =>
    have hshift : l < n → 2 ^ (n - l) * 2 ^ (maxBits - n) = 2 ^ (maxBits - l) := fun hl => by
      rw [← Nat.pow_add]
      congr 1
      omega
    simp only [firstCodeOf, kraftSum, List.map_cons, List.sum_cons, List.count_cons, beq_iff_eq,
      List.filter_cons, decide_eq_true_eq, Nat.add_mul] at ih ⊢
    by_cases h0 : 0 < l
    · rw [if_pos h0, List.map_cons, List.sum_cons]
      rcases Nat.lt_trichotomy l n with hl | rfl | hl
      · rw [if_pos ⟨h0, hl⟩, if_neg (by omega), hshift hl]
        omega
      · rw [if_neg (by omega), if_pos rfl]
        omega
      · have := Nat.two_pow_pos (maxBits - l)
        rw [if_neg (by omega), if_neg (by omega)]
        omega
    · rw [if_neg h0, if_neg (by omega), if_neg (by omega)]
      omega

/-- `next` of R170 at its start holds the first code of each length. -/
theorem getD_firstCodes (maxBits : Nat) (lens : List Nat) {n : Nat} (h : n < maxBits) :
    (firstCodes 0 (lengthCounts maxBits lens)).getD n 0 = firstCodeOf lens (n + 1) := by
  have step : ∀ (code : Nat) (cs : List Nat) (i : Nat), i + 1 < cs.length →
      (firstCodes code cs).getD (i + 1) 0 =
        2 * ((firstCodes code cs).getD i 0 + cs.getD (i + 1) 0) := by
    intro code cs i hi
    induction i generalizing code cs with
    | zero =>
      match cs with
      | c :: d :: _ => rfl
    | succ i ih =>
      match cs with
      | c :: cs => exact ih (2 * (code + c)) cs (by simpa using hi)
  induction n with
  | zero =>
    obtain ⟨m, rfl⟩ := Nat.exists_eq_add_of_lt h
    simp [lengthCounts, List.range_succ_eq_map, firstCodes]
  | succ n ih =>
    rw [step _ _ _ (by simpa [lengthCounts] using h), ih (by omega),
      firstCodeOf_succ lens (n := n + 1) (by omega)]
    simp [lengthCounts, List.getD_eq_getElem?_getD, h]

/-! ### The codeword of each symbol -/

/-- A used symbol takes the next code of its length, in increasing order of the symbols (R170). -/
theorem getD_assignCodes (next lens : List Nat) {i n : Nat} (hi : lens[i]? = some n) (hn : n ≠ 0)
    (hnext : ∀ m ∈ lens, m < next.length) :
    (assignCodes next lens).getD i 0 = next.getD n 0 + (lens.take i).count n := by
  induction lens generalizing next i with
  | nil => simp at hi
  | cons l ls ih =>
    have hl : l < next.length := hnext l (by simp)
    have hrest : ∀ m ∈ ls, m < next.length := fun m hm => hnext m (by simp [hm])
    cases i with
    | zero =>
      obtain rfl : l = n := by simpa using hi
      simp [assignCodes, hn]
    | succ i =>
      have hi' : ls[i]? = some n := by simpa using hi
      unfold assignCodes
      split
      · next h0 => simpa [h0, Ne.symm hn] using ih next hi' hrest
      · rw [List.getD_cons_succ, ih _ hi' (by simpa using hrest), List.take_succ_cons,
          List.count_cons]
        by_cases hln : l = n
        · subst hln
          simp [hl]
          omega
        · simp [hln, List.getD_eq_getElem?_getD, List.getElem?_set_ne hln]

/-- The codeword of a used symbol: the first code of its length, plus the earlier symbols of that
length. -/
theorem getD_canonicalCodes {maxBits : Nat} {lens : List Nat} (hlens : ∀ m ∈ lens, m ≤ maxBits)
    {i n : Nat} (hi : lens[i]? = some n) (hn : n ≠ 0) :
    (canonicalCodes maxBits lens).getD i 0 = firstCodeOf lens n + (lens.take i).count n := by
  have hlength : ∀ (code : Nat) (cs : List Nat), (firstCodes code cs).length = cs.length := by
    intro code cs
    induction cs generalizing code with
    | nil => rfl
    | cons c cs ih => simp [firstCodes, ih]
  have hle : n ≤ maxBits := hlens n (List.mem_of_getElem? hi)
  obtain ⟨m, rfl⟩ := Nat.exists_eq_succ_of_ne_zero hn
  have hnext : ∀ k ∈ lens, k < (0 :: firstCodes 0 (lengthCounts maxBits lens)).length := by
    intro k hk
    simpa [hlength, lengthCounts] using Nat.lt_succ_of_le (hlens k hk)
  rw [canonicalCodes, getD_assignCodes _ _ hi hn hnext, List.getD_cons_succ,
    getD_firstCodes _ _ hle]

/-- Of the symbols before `i` fewer have the length of `i` than of all symbols. -/
theorem count_take_lt {lens : List Nat} {i n : Nat} (hi : lens[i]? = some n) {j : Nat} (hj : i < j) :
    (lens.take i).count n < (lens.take j).count n := by
  obtain ⟨hlt, hget⟩ := List.getElem?_eq_some_iff.1 hi
  have hsucc : (lens.take (i + 1)).count n = (lens.take i).count n + 1 := by
    rw [List.take_succ_eq_append_getElem hlt, List.count_append, hget]
    simp
  have hmono : (lens.take (i + 1)).count n ≤ (lens.take j).count n :=
    (List.take_sublist_take_left hj).count_le n
  omega

/-- The codes of one length are fewer than counted for it. -/
theorem count_take_lt_count {lens : List Nat} {i n : Nat} (hi : lens[i]? = some n) :
    (lens.take i).count n < lens.count n := by
  have := count_take_lt hi (List.getElem?_eq_some_iff.1 hi).1
  rwa [List.take_length] at this

section
variable {maxBits : Nat} {lens : List Nat} (hlens : ∀ m ∈ lens, m ≤ maxBits)
  (hkraft : kraftSum maxBits lens ≤ 2 ^ maxBits)
include hlens

include hkraft in
/-- A codeword fits its length (R171). -/
theorem canonicalCode_lt {i n : Nat} (hi : lens[i]? = some n) (hn : n ≠ 0) :
    (canonicalCodes maxBits lens).getD i 0 < 2 ^ n := by
  have hle : n ≤ maxBits := hlens n (List.mem_of_getElem? hi)
  have hend := (codes_end_le_kraftSum lens (Nat.pos_of_ne_zero hn) hle).trans hkraft
  have hpow : 2 ^ maxBits = 2 ^ n * 2 ^ (maxBits - n) := by rw [← Nat.pow_add]; congr 1; omega
  rw [hpow] at hend
  have := Nat.le_of_mul_le_mul_right hend (Nat.two_pow_pos _)
  have := count_take_lt_count hi
  rw [getD_canonicalCodes hlens hi hn]
  omega

/-- No codeword is the start of a longer one, and two of one length differ (R171). -/
theorem canonicalCode_not_begins {i j n m : Nat} (hi : lens[i]? = some n) (hj : lens[j]? = some m)
    (hn : n ≠ 0) (hij : i ≠ j) (hnm : n ≤ m) :
    (canonicalCodes maxBits lens).getD j 0 / 2 ^ (m - n) ≠
      (canonicalCodes maxBits lens).getD i 0 := by
  rw [getD_canonicalCodes hlens hi hn, getD_canonicalCodes hlens hj (by omega)]
  rcases Nat.eq_or_lt_of_le hnm with rfl | hlt
  · rw [Nat.sub_self, Nat.pow_zero, Nat.div_one]
    rcases Nat.lt_or_gt_of_ne hij with h | h
    · have := count_take_lt hi h
      omega
    · have := count_take_lt hj h
      omega
  · obtain ⟨k, rfl⟩ := Nat.exists_eq_add_of_lt hlt
    have hend := codes_end_le_firstCodeOf lens (k := k) (Nat.pos_of_ne_zero hn)
    have hcount := count_take_lt_count hi
    rw [show n + k + 1 - n = k + 1 by omega]
    have : firstCodeOf lens n + lens.count n ≤
        (firstCodeOf lens (n + k + 1) + (lens.take j).count (n + k + 1)) / 2 ^ (k + 1) :=
      (Nat.le_div_iff_mul_le (Nat.two_pow_pos _)).2 (hend.trans (Nat.le_add_right _ _))
    omega

end

/-! ### Codewords as they arrive -/

theorem testBit_revBits (n c i : Nat) :
    (revBits n c).testBit i = (decide (i < n) && c.testBit (n - 1 - i)) := by
  rw [revBits, testBit_ofBits, List.getD_eq_getElem?_getD]
  by_cases h : i < n
  · rw [List.getElem?_reverse (by simpa using h)]
    have hlt : n - 1 - i < n := by omega
    simp [bitsOf, h, hlt]
  · rw [List.getElem?_eq_none (by simpa using h)]
    simp [h]

theorem revBits_inj {n c d : Nat} (hc : c < 2 ^ n) (hd : d < 2 ^ n)
    (h : revBits n c = revBits n d) : c = d := by
  refine Nat.eq_of_testBit_eq fun i => ?_
  by_cases hi : i < n
  · have hbit := congrArg (fun v => v.testBit (n - 1 - i)) h
    have hlt : n - 1 - i < n := by omega
    simpa [testBit_revBits, hlt, show n - 1 - (n - 1 - i) = i by omega] using hbit
  · have hpow : 2 ^ n ≤ 2 ^ i := Nat.pow_le_pow_right (by decide) (by omega)
    rw [Nat.testBit_lt_two_pow (by omega), Nat.testBit_lt_two_pow (by omega)]

/-- The first bits of a codeword as it arrives are its upper bits (R64). -/
theorem revBits_mod_two_pow (c : Nat) {m n : Nat} (h : m ≤ n) :
    revBits n c % 2 ^ m = revBits m (c / 2 ^ (n - m)) := by
  refine Nat.eq_of_testBit_eq fun i => ?_
  rw [Nat.testBit_mod_two_pow, testBit_revBits, testBit_revBits, Nat.testBit_div_two_pow]
  by_cases hi : i < m
  · have hin : i < n := by omega
    simp [hi, hin, show m - 1 - i + (n - m) = n - 1 - i by omega]
  · simp [hi]

/-! ### The rows of a decode table -/

/-- A row of a decode table is the one of a used symbol (R191). -/
theorem mem_decodeRows {first : Nat} {lens codes : List Nat} (hlen : codes.length = lens.length)
    {r : DecRow} :
    r ∈ decodeRows first lens codes ↔
      ∃ i n, lens[i]? = some n ∧ n ≠ 0 ∧ r = ⟨revBits n (codes.getD i 0), n, first + i⟩ := by
  induction lens generalizing first codes with
  | nil => simp [decodeRows]
  | cons l ls ih =>
    match codes with
    | c :: cs =>
      have later : r ∈ decodeRows (first + 1) ls cs ↔ ∃ i n, (l :: ls)[i + 1]? = some n ∧ n ≠ 0 ∧
          r = ⟨revBits n ((c :: cs).getD (i + 1) 0), n, first + (i + 1)⟩ := by
        rw [ih (by simpa using hlen)]
        simp [Nat.add_assoc, Nat.add_comm 1]
      unfold decodeRows
      split
      · next h0 =>
        rw [later]
        constructor
        · rintro ⟨i, hi⟩
          exact ⟨i + 1, hi⟩
        · rintro ⟨_ | i, n, hi, hn, hr⟩
          · simp [h0] at hi
            omega
          · exact ⟨i, n, hi, hn, hr⟩
      · next h0 =>
        rw [List.mem_cons, later]
        constructor
        · rintro (rfl | ⟨i, hi⟩)
          · exact ⟨0, l, rfl, h0, rfl⟩
          · exact ⟨i + 1, hi⟩
        · rintro ⟨_ | i, n, hi, hn, hr⟩
          · obtain rfl : l = n := by simpa using hi
            exact .inl hr
          · exact .inr ⟨i, n, hi, hn, hr⟩

/-- The rows stand in the order of their symbols (R191). -/
theorem pairwise_decodeRows (first : Nat) (lens codes : List Nat) :
    (decodeRows first lens codes).Pairwise fun r q => r.sym < q.sym := by
  induction lens generalizing first codes with
  | nil => simp [decodeRows]
  | cons l ls ih =>
    match codes with
    | [] => simp [decodeRows]
    | c :: cs =>
      unfold decodeRows
      split
      · exact ih _ _
      · refine List.pairwise_cons.2 ⟨fun r hr => ?_, ih _ _⟩
        have := (length_of_mem_decodeRows hr).1
        exact Nat.lt_of_succ_le this

/-! ### The table of accepted lengths -/

/-- The table that `BuildDecoder(a)` leaves for some accepted lengths of the alphabet (R191, R192). -/
def TableOfCode (a : Alphabet) (t : DecTable) : Prop :=
  ∃ lens : List Nat, lens.length = a.nlen ∧ (∀ n ∈ lens, n ≤ a.maxBits) ∧
    codeAccepted a lens = true ∧ t = builtTable a lens

/-- Accepted lengths are not over-subscribed (R192). -/
theorem kraftSum_le_of_codeAccepted {a : Alphabet} {lens : List Nat}
    (h : codeAccepted a lens = true) : kraftSum a.maxBits lens ≤ 2 ^ a.maxBits := by
  simp only [codeAccepted, Bool.or_eq_true, Bool.and_eq_true, beq_iff_eq, decide_eq_true_eq] at h
  rcases h with h | ⟨⟨h, -⟩, -⟩
  · exact h.le
  · exact h.le

end Sys2Proof

namespace Sys2Proof.Machine

/-- Accepted lengths give codewords of legal lengths in symbol order, none the start of another (R171,
R191). -/
theorem tableOk_of_tableOfCode {a : Alphabet} {t : DecTable} (h : TableOfCode a t) :
    tableOk a t = true := by
  obtain ⟨lens, hlen, hmax, hacc, rfl⟩ := h
  have hkraft := kraftSum_le_of_codeAccepted hacc
  have hcodes : (canonicalCodes a.maxBits lens).length = lens.length := by simp
  simp only [builtTable, tableOk, Bool.and_eq_true, List.all_eq_true, decide_eq_true_eq]
  constructor
  · intro r hr
    obtain ⟨i, n, hi, hn, rfl⟩ := (mem_decodeRows hcodes).1 hr
    have hsym : i < lens.length := (List.getElem?_eq_some_iff.1 hi).1
    exact ⟨⟨⟨Nat.pos_of_ne_zero hn, hmax n (List.mem_of_getElem? hi)⟩, revBits_lt _ _⟩, by
      simpa [← hlen] using hsym⟩
  · refine (pairwise_decodeRows _ _ _).imp_of_mem fun hr hq hlt => ⟨hlt, ?_⟩
    obtain ⟨i, n, hi, hn, rfl⟩ := (mem_decodeRows hcodes).1 hr
    obtain ⟨j, m, hj, hm, rfl⟩ := (mem_decodeRows hcodes).1 hq
    have hij : i ≠ j := fun e => by simp [e] at hlt
    have hcode {k l : Nat} (hk : lens[k]? = some l) (hl : l ≠ 0) :=
      canonicalCode_lt hmax hkraft hk hl
    intro heq
    rcases Nat.le_total n m with hnm | hnm
    · rw [Nat.min_eq_left hnm, Nat.mod_eq_of_lt (revBits_lt _ _), revBits_mod_two_pow _ hnm] at heq
      refine canonicalCode_not_begins hmax hi hj hn hij hnm (revBits_inj ?_ (hcode hi hn) heq.symm)
      refine Nat.div_lt_of_lt_mul ?_
      rw [← Nat.pow_add, Nat.sub_add_cancel hnm]
      exact hcode hj hm
    · rw [Nat.min_eq_right hnm, Nat.mod_eq_of_lt (revBits_lt _ _), revBits_mod_two_pow _ hnm] at heq
      refine canonicalCode_not_begins hmax hj hi hm hij.symm hnm (revBits_inj ?_ (hcode hj hm) heq)
      refine Nat.div_lt_of_lt_mul ?_
      rw [← Nat.pow_add, Nat.sub_add_cancel hnm]
      exact hcode hi hn

theorem kraftSum_append (maxBits : Nat) (l m : List Nat) :
    kraftSum maxBits (l ++ m) = kraftSum maxBits l + kraftSum maxBits m := by
  simp [kraftSum]

theorem kraftSum_replicate (maxBits k : Nat) {n : Nat} (hn : 0 < n) :
    kraftSum maxBits (List.replicate k n) = k * 2 ^ (maxBits - n) := by
  rw [kraftSum, List.filter_replicate_of_pos (by simpa using hn)]
  simp

/-- The fixed code's lengths are accepted for its alphabets (R104, R192). -/
theorem codeAccepted_fixedLenLL : codeAccepted .ll fixedLenLL = true := by
  have hsum : kraftSum 15 fixedLenLL = 2 ^ 15 := by
    unfold fixedLenLL
    iterate 3 rw [kraftSum_append]
    iterate 4 rw [kraftSum_replicate _ _ (by decide)]
    rfl
  simp [codeAccepted, Alphabet.maxBits, hsum]

theorem codeAccepted_fixedLenD : codeAccepted .d fixedLenD = true := by
  have hsum : kraftSum 15 fixedLenD = 2 ^ 15 := kraftSum_replicate 15 32 (by decide)
  simp [codeAccepted, Alphabet.maxBits, hsum]

/-- The fixed code's lengths are legal for its alphabets (R104, R160). -/
theorem fixedLenLL_le : ∀ n ∈ fixedLenLL, n ≤ Alphabet.ll.maxBits := by
  intro n hn
  obtain ⟨i, hi⟩ := List.getElem?_of_mem hn
  rw [fixedLenLL_length hi]
  unfold Alphabet.maxBits
  split_ifs <;> decide

theorem fixedLenD_le : ∀ n ∈ fixedLenD, n ≤ Alphabet.d.maxBits := by
  intro n hn
  obtain ⟨i, hi⟩ := List.getElem?_of_mem hn
  rw [fixedLenD_length hi]
  decide

/-- The fixed code's tables come from its lengths (R104, R275). -/
theorem tableOfCode_fixedTable_ll : TableOfCode .ll (fixedTable .ll) :=
  ⟨fixedLenLL, length_fixedLenLL, fixedLenLL_le, codeAccepted_fixedLenLL, rfl⟩

theorem tableOfCode_fixedTable_d : TableOfCode .d (fixedTable .d) :=
  ⟨fixedLenD, length_fixedLenD, fixedLenD_le, codeAccepted_fixedLenD, rfl⟩

end Sys2Proof.Machine

/-! ## What a step does to the decode tables (R41, R191, R275, R277, R279)

A step keeps a table, leaves it unspecified, or builds it from accepted lengths; and where the next mode
reads a table, that table is the one this mode read or has just been loaded. -/

namespace Sys2Proof.Machine

/-! ### One table -/

/-- What a step may leave in `DTBL_a`: what stood there, unspecified contents, or the table of accepted
lengths. -/
def TableStep (a : Alphabet) (old new : DecTable) : Prop :=
  new = old ∨ (∃ tag, new = .unspecified tag) ∨ TableOfCode a new

theorem TableStep.tableOk {a : Alphabet} {old new : DecTable} (h : TableStep a old new)
    (hold : tableOk a old = true) : tableOk a new = true := by
  rcases h with rfl | ⟨tag, rfl⟩ | h
  · exact hold
  · rfl
  · exact tableOk_of_tableOfCode h

theorem TableStep.tableFromLens {a : Alphabet} {old new : DecTable} (h : TableStep a old new)
    (hold : tableFromLens a old) : tableFromLens a new := by
  rcases h with rfl | ⟨tag, rfl⟩ | h
  · exact hold
  · nofun
  · exact fun _ => h

/-- Each of the three tables is kept, unspecified, or the table of accepted lengths. -/
structure TablesStep (s t : State) : Prop where
  ll : TableStep .ll s.dtblLL t.dtblLL
  d : TableStep .d s.dtblD t.dtblD
  cl : TableStep .cl s.dtblCL t.dtblCL

theorem TablesStep.of_kept {s t : State} (hll : t.dtblLL = s.dtblLL) (hd : t.dtblD = s.dtblD)
    (hcl : t.dtblCL = s.dtblCL) : TablesStep s t := ⟨.inl hll, .inl hd, .inl hcl⟩

theorem TablesStep.refl (s : State) : TablesStep s s := .of_kept rfl rfl rfl

theorem TableStep.trans {a : Alphabet} {t u v : DecTable} (h : TableStep a t u)
    (h' : TableStep a u v) : TableStep a t v := by
  rcases h' with rfl | h'
  · exact h
  · exact .inr h'

theorem TablesStep.trans {s t u : State} (h : TablesStep s t) (h' : TablesStep t u) :
    TablesStep s u := ⟨h.ll.trans h'.ll, h.d.trans h'.d, h.cl.trans h'.cl⟩

theorem tablesStep_dropTables (s : State) : TablesStep s s.dropTables :=
  ⟨.inr (.inl ⟨_, rfl⟩), .inr (.inl ⟨_, rfl⟩), .inr (.inl ⟨_, rfl⟩)⟩

theorem tablesStep_setDtbl (s : State) {a : Alphabet} {t : DecTable} (h : TableOfCode a t) :
    TablesStep s (s.setDtbl a t) := by
  cases a with
  | ll => exact ⟨.inr (.inr h), .inl rfl, .inl rfl⟩
  | d => exact ⟨.inl rfl, .inr (.inr h), .inl rfl⟩
  | cl => exact ⟨.inl rfl, .inl rfl, .inr (.inr h)⟩

/-- An error leaves every table unspecified, or, if `InvalidConfig`, as it was (R359). -/
theorem tablesStep_raise (k : ErrorKeep) (e : HwError) (s : State) : TablesStep s (s.raise k e) := by
  unfold State.raise
  split
  · exact .of_kept rfl rfl rfl
  · exact ⟨.inr (.inl ⟨_, rfl⟩), .inr (.inl ⟨_, rfl⟩), .inr (.inl ⟨_, rfl⟩)⟩

theorem tablesStep_raiseDecode (e : HwError) (s : State) : TablesStep s (s.raiseDecode e) :=
  { tablesStep_raise s.decodeKeep e s with }

theorem tablesStep_endBlock (s : State) : TablesStep s s.endBlock := by
  rcases endBlock_cases s with ⟨-, he⟩ | ⟨-, -, he⟩ | ⟨-, -, -, he⟩ | ⟨-, -, -, he⟩ <;> rw [he]
  · exact { tablesStep_dropTables s with }
  · exact .of_kept rfl rfl rfl
  · exact .of_kept rfl rfl rfl
  · exact { tablesStep_dropTables s.alignR with }

/-! ### Code lengths written and read back (R32) -/

/-- The entries of `LEN_a` are legal code lengths: their width allows no more (R32, R160). -/
theorem lens_le_maxBits (s : State) (a : Alphabet) : ∀ n ∈ s.lens a, n ≤ a.maxBits := by
  intro n hn
  obtain ⟨i, -, rfl⟩ := List.mem_map.1 hn
  cases a with
  | ll => exact Nat.le_of_lt_succ (s.lenLL.read 6 i).isLt
  | d => exact Nat.le_of_lt_succ (s.lenD.read 7 i).isLt
  | cl => exact Nat.le_of_lt_succ (s.lenCL.read 8 i).isLt

/-- Elements written from index 0 on are read back, if they fit their width. -/
theorem map_toNat_readRun_writeRun {w : Nat} (m : Memory w) (sp : Nat) {vals : List Nat}
    (h : ∀ n ∈ vals, n < 2 ^ w) :
    ((List.range vals.length).map fun i =>
      ((m.writeRun 0 (vals.map (BitVec.ofNat w))).read sp i).toNat) = vals := by
  refine List.ext_getElem (by simp) fun i hi hi' => ?_
  have hread := m.read_writeRun_mem 0 (vals.map (BitVec.ofNat w)) sp i (Nat.zero_le _)
    (by simpa using hi')
  simp only [List.getElem_map, List.getElem_range, hread, Nat.sub_zero, BitVec.toNat_ofNat]
  exact Nat.mod_eq_of_lt (h _ (List.getElem_mem _))

/-- A full list of legal lengths written to `LEN_a` is what `LEN_a` then holds. -/
theorem lens_setLens_self (s : State) {a : Alphabet} {lens : List Nat}
    (hlen : lens.length = a.nlen) (hmax : ∀ n ∈ lens, n ≤ a.maxBits) :
    (s.setLens a lens).lens a = lens := by
  rw [State.lens, ← hlen]
  cases a with
  | ll => exact map_toNat_readRun_writeRun s.lenLL 6 fun n hn => Nat.lt_succ_of_le (hmax n hn)
  | d => exact map_toNat_readRun_writeRun s.lenD 7 fun n hn => Nat.lt_succ_of_le (hmax n hn)
  | cl => exact map_toNat_readRun_writeRun s.lenCL 8 fun n hn => Nat.lt_succ_of_le (hmax n hn)

theorem lens_congr_ll {s t : State} (h : t.lenLL = s.lenLL) : t.lens .ll = s.lens .ll := by
  exact List.map_congr_left fun i _ => by simp only [State.lenAt, h]

theorem lens_congr_d {s t : State} (h : t.lenD = s.lenD) : t.lens .d = s.lens .d := by
  exact List.map_congr_left fun i _ => by simp only [State.lenAt, h]

theorem lens_congr_cl {s t : State} (h : t.lenCL = s.lenCL) : t.lens .cl = s.lens .cl := by
  exact List.map_congr_left fun i _ => by simp only [State.lenAt, h]

theorem tableOfCode_lens {s : State} {a : Alphabet} (h : codeAccepted a (s.lens a) = true) :
    TableOfCode a (builtTable a (s.lens a)) :=
  ⟨s.lens a, by simp, lens_le_maxBits s a, h, rfl⟩

/-! ### The lengths of a dynamic block -/

/-- What a successful `LoadDynamic` leaves: both tables built from the transmitted lengths, which
`LEN_LL` and `LEN_D` then hold (R279). -/
structure DynamicLoaded (s t : State) : Prop where
  phase : t.phase = .data .dynamic
  ofLensLL : t.tableOfLens .ll
  ofLensD : t.tableOfLens .d
  ofCodeLL : TableOfCode .ll t.dtblLL
  ofCodeD : TableOfCode .d t.dtblD
  cl : t.dtblCL = s.dtblCL

theorem dynamicLoaded_of_loadDynamic {nl nd : Nat} {seq : List Nat} {s t : State}
    (hlen : seq.length = nl + nd) (hnl : nl ≤ 286) (hnd : nd ≤ 30) (hseq : ∀ n ∈ seq, n ≤ 15)
    (h : s.loadDynamic nl seq = .ok t) : DynamicLoaded s t := by
  rcases loadDynamic_cases nl seq s with he | ⟨ll, d, hall, had, he, hll, hd⟩ <;> rw [he] at h
  · cases h
  have padded : ∀ (l : List Nat) (k : Nat), (∀ n ∈ l, n ∈ seq) →
      ∀ n ∈ l ++ List.replicate k 0, n ≤ 15 := by
    intro l k hl n hn
    rcases List.mem_append.1 hn with hn | hn
    · exact hseq n (hl n hn)
    · rw [(List.mem_replicate.1 hn).2]
      exact Nat.zero_le _
  have hlll : ll.length = Alphabet.ll.nlen := by simp [hll, Alphabet.nlen]; omega
  have hdl : d.length = Alphabet.d.nlen := by simp [hd, Alphabet.nlen]; omega
  have hllmax : ∀ n ∈ ll, n ≤ Alphabet.ll.maxBits :=
    hll ▸ padded _ _ fun n hn => List.mem_of_mem_take hn
  have hdmax : ∀ n ∈ d, n ≤ Alphabet.d.maxBits :=
    hd ▸ padded _ _ fun n hn => List.mem_of_mem_drop hn
  have ht := (Except.ok.inj h).symm
  have hlensLL : t.lens .ll = ll := by
    rw [← lens_setLens_self s hlll hllmax]
    exact lens_congr_ll (by rw [ht]; rfl)
  have hlensD : t.lens .d = d := by
    rw [← lens_setLens_self (s.setLens .ll ll) hdl hdmax]
    exact lens_congr_d (by rw [ht]; rfl)
  have htblLL : t.dtblLL = builtTable .ll ll := by rw [ht]; rfl
  have htblD : t.dtblD = builtTable .d d := by rw [ht]; rfl
  exact {
    phase := by rw [ht]
    ofLensLL := by rw [State.tableOfLens, hlensLL]; exact htblLL
    ofLensD := by rw [State.tableOfLens, hlensD]; exact htblD
    ofCodeLL := ⟨ll, hlll, hllmax, hall, htblLL⟩
    ofCodeD := ⟨d, hdl, hdmax, had, htblD⟩
    cl := by rw [ht]; rfl }

/-- Nothing that decoding with the tables rests on has changed. -/
structure SameTables (s t : State) : Prop where
  ll : t.dtblLL = s.dtblLL
  d : t.dtblD = s.dtblD
  cl : t.dtblCL = s.dtblCL
  lenLL : t.lenLL = s.lenLL
  lenD : t.lenD = s.lenD
  lenCL : t.lenCL = s.lenCL

theorem SameTables.tablesStep {s t : State} (h : SameTables s t) : TablesStep s t :=
  .of_kept h.ll h.d h.cl

theorem sameTables_skip (s : State) (n : Nat) : SameTables s (s.skip n) :=
  ⟨rfl, rfl, rfl, rfl, rfl, rfl⟩

theorem sameTables_outBytes (s : State) (bs : List Byte) : SameTables s (s.outBytes bs) :=
  ⟨by simp, by simp, by simp, by simp, by simp, by simp⟩

theorem sameTables_copyBytes (s : State) (dist n : Nat) : SameTables s (copyBytes dist n s) := by
  rw [copyBytes_frame]
  exact ⟨rfl, rfl, rfl, rfl, rfl, rfl⟩

theorem SameTables.trans {s t u : State} (h : SameTables s t) (h' : SameTables t u) :
    SameTables s u :=
  ⟨h'.ll.trans h.ll, h'.d.trans h.d, h'.cl.trans h.cl, h'.lenLL.trans h.lenLL, h'.lenD.trans h.lenD,
    h'.lenCL.trans h.lenCL⟩

/-! ### The tables a mode reads -/

/-- Which tables a decode mode reads (R112). -/
inductive TablesRead where
  | none
  | codeLengths
  | fixed
  | dynamic

/-- The tables of a block kind's data. -/
def TablesRead.ofKind : BlockKind → TablesRead
  | .fixed => .fixed
  | .dynamic => .dynamic

/-- The tables that the bits at the cursor are decoded with. -/
def tablesRead : Phase → TablesRead
  | .dynLens _ _ _ => .codeLengths
  | .data k | .lenExtra k _ | .distCode k _ | .distExtra k _ _ => .ofKind k
  | .idle | .zlibHdr | .blockHdr | .storedLen | .storedData _ | .dynHdr | .dynClLen _ _ _ _
  | .zlibAdler => .none

/-- Where a mode reads a transmitted code's table, the table and the lengths in `LEN_a` are as `P` says;
where it reads the fixed code, the fixed code's tables are loaded. -/
def State.ModeTables (P : Alphabet → DecTable → List Nat → Prop) (s : State) : Prop :=
  match tablesRead s.phase with
  | .none => True
  | .codeLengths => P .cl s.dtblCL (s.lens .cl)
  | .fixed => s.dtblLL = fixedTable .ll ∧ s.dtblD = fixedTable .d
  | .dynamic => P .ll s.dtblLL (s.lens .ll) ∧ P .d s.dtblD (s.lens .d)

/-- `ctxOk` by its parts: each table is well formed, and the ones the mode reads are built. -/
theorem ctxOk_iff (s : State) : ctxOk s.ctx = true ↔
    (tableOk .ll s.dtblLL = true ∧ tableOk .d s.dtblD = true ∧ tableOk .cl s.dtblCL = true) ∧
      s.ModeTables fun _ t _ => tableBuilt t = true := by
  simp only [ctxOk, State.ctx, Bool.and_eq_true, State.ModeTables, and_assoc]
  refine and_congr_right fun _ => and_congr_right fun _ => and_congr_right fun _ => ?_
  generalize s.phase = p
  cases p with
  | data k | lenExtra k _ | distCode k _ | distExtra k _ _ =>
    cases k <;> simp [tablesRead, TablesRead.ofKind]
  | _ => simp [tablesRead]

/-- `tablesFromLens` by its parts: each table comes from accepted lengths, and the ones the mode reads
from the lengths in `LEN_a`. -/
theorem tablesFromLens_iff (s : State) : s.tablesFromLens ↔
    (tableFromLens .ll s.dtblLL ∧ tableFromLens .d s.dtblD ∧ tableFromLens .cl s.dtblCL) ∧
      s.ModeTables fun a t lens => t = builtTable a lens := by
  refine and_congr_right fun _ => ?_
  unfold State.ModeTables State.tableOfLens
  cases s.phase with
  | data k | lenExtra k _ | distCode k _ | distExtra k _ _ => cases k <;> rfl
  | _ => rfl

section
variable {P : Alphabet → DecTable → List Nat → Prop} {s t : State}

theorem State.ModeTables.of_none (h : tablesRead t.phase = .none) : t.ModeTables P := by
  unfold State.ModeTables
  rw [h]
  trivial

/-- From one mode to the next that reads the same tables nothing is to be shown but that these and their
lengths stay. -/
theorem State.ModeTables.of_kept (hs : s.ModeTables P) (hp : tablesRead t.phase = tablesRead s.phase)
    (h : SameTables s t) : t.ModeTables P := by
  unfold State.ModeTables at hs ⊢
  rw [hp, h.ll, h.d, h.cl, lens_congr_ll h.lenLL, lens_congr_d h.lenD, lens_congr_cl h.lenCL]
  exact hs

end

/-! ### Element steps -/

theorem loadFixed_dtblLL (s : State) : s.loadFixed.dtblLL = fixedTable .ll := rfl

theorem loadFixed_dtblD (s : State) : s.loadFixed.dtblD = fixedTable .d := rfl

theorem loadFixed_dtblCL (s : State) : s.loadFixed.dtblCL = s.dtblCL := by
  unfold State.loadFixed
  generalize fixedTable .ll = ll, fixedTable .d = d
  rfl

theorem tablesStep_loadFixed (s : State) : TablesStep s s.loadFixed := by
  refine ⟨?_, ?_, .inl (loadFixed_dtblCL s)⟩
  · rw [loadFixed_dtblLL]
    exact .inr (.inr tableOfCode_fixedTable_ll)
  · rw [loadFixed_dtblD]
    exact .inr (.inr tableOfCode_fixedTable_d)


/-- The clauses of `phaseOk` at the lengths of a dynamic block. -/
theorem phaseOk_dynLens_iff {nl nd : Nat} {seq : List Nat} : phaseOk (.dynLens nl nd seq) = true ↔
    (257 ≤ nl ∧ nl ≤ 286) ∧ (1 ≤ nd ∧ nd ≤ 30) ∧ seq.length < nl + nd ∧ ∀ n ∈ seq, n ≤ 15 := by
  simp [phaseOk, and_assoc]

/-- The last length of a dynamic block loads both its tables (R279). -/
theorem dynamicLoaded_of_lastCodeLength {k n x nl nd : Nat} {seq : List Nat} {s t : State}
    (hmode : phaseOk s.phase = true) (hp : s.phase = .dynLens nl nd seq)
    (hlen : (expandPair seq (k, x)).length = nl + nd)
    (h : (s.skip (n + clExtra k)).loadDynamic nl (expandPair seq (k, x)) = .ok t) :
    DynamicLoaded (s.skip (n + clExtra k)) t := by
  rw [hp, phaseOk_dynLens_iff] at hmode
  obtain ⟨⟨-, hnl⟩, ⟨-, hnd⟩, -, hseq⟩ := hmode
  exact dynamicLoaded_of_loadDynamic hlen hnl hnd (expandPair_le hseq _) h

theorem tablesStep_of_move {s t : State} (hmode : phaseOk s.phase = true) (h : DecodeMove s t) :
    TablesStep s t := by
  cases h with
  | raised e => exact tablesStep_raiseDecode e s
  | fixedHeader f =>
    exact { tablesStep_loadFixed { s.skip 3 with
      run := { s.run with bfinal := f, btype := 1 } } with }
  | reservedHeader f => exact { tablesStep_raiseDecode .invalidBlockType { s.skip 3 with
      run := { s.run with bfinal := f, btype := 3 } } with }
  | storedData payload =>
    exact ((sameTables_skip s _).trans (sameTables_outBytes _ payload)).tablesStep.trans
      (tablesStep_endBlock _)
  | dynClLast v nl nd nc j lens hp hr hj hlens hacc =>
    subst hlens
    exact ⟨.inl rfl, .inl rfl, .inr (.inr (tableOfCode_lens hacc))⟩
  | lastCodeLength k n x nl nd seq t hp hr hlen hl =>
    have hload := dynamicLoaded_of_lastCodeLength hmode hp hlen hl
    exact ⟨.inr (.inr hload.ofCodeLL), .inr (.inr hload.ofCodeD), .inl hload.cl⟩
  | literal k b n => exact ((sameTables_skip s n).trans (sameTables_outBytes _ [b])).tablesStep
  | endOfBlock k n => exact { tablesStep_endBlock (s.skip n) with }
  | copy k len d dist =>
    exact { (sameTables_copyBytes (s.skip (distExtra d)) dist len).tablesStep with }
  | zlibAdler => exact { tablesStep_dropTables s with }
  | _ => exact .of_kept rfl rfl rfl

/-- The end of a block leaves the modes that read a table. -/
theorem tablesRead_endBlock (s : State) : tablesRead s.endBlock.phase = .none := by
  rcases endBlock_cases s with ⟨-, he⟩ | ⟨-, -, he⟩ | ⟨-, -, -, he⟩ | ⟨-, -, -, he⟩ <;> rw [he] <;> rfl

/-- An element step leaves in place the tables that the next mode reads, or has loaded them. `P` may be
anything that holds of the table of accepted lengths when `LEN_a` holds them. -/
theorem modeTables_of_move {P : Alphabet → DecTable → List Nat → Prop}
    (hP : ∀ a t lens, TableOfCode a t → t = builtTable a lens → P a t lens) {s t : State}
    (hmode : phaseOk s.phase = true) (hs : s.ModeTables P) (h : DecodeMove s t) :
    t.ModeTables P := by
  cases h with
  | fixedHeader f => exact ⟨rfl, rfl⟩
  | storedData payload => exact .of_none (tablesRead_endBlock _)
  | dynClLast v nl nd nc j lens hp hr hj hlens hacc =>
    subst hlens
    exact hP .cl _ _ (tableOfCode_lens hacc) rfl
  | codeLength k n x nl nd seq hp =>
    exact hs.of_kept (by rw [hp]; rfl) { sameTables_skip s (n + clExtra k) with }
  | lastCodeLength k n x nl nd seq t hp hr hlen hl =>
    have hload := dynamicLoaded_of_lastCodeLength hmode hp hlen hl
    unfold State.ModeTables
    rw [hload.phase]
    exact ⟨hP _ _ _ hload.ofCodeLL hload.ofLensLL, hP _ _ _ hload.ofCodeD hload.ofLensD⟩
  | literal k b n =>
    exact hs.of_kept (by simp) ((sameTables_skip s n).trans (sameTables_outBytes _ [b]))
  | endOfBlock k n => exact .of_none (tablesRead_endBlock _)
  | lengthCode k sym n hp => exact hs.of_kept (by rw [hp]; rfl) { sameTables_skip s n with }
  | lengthExtra k j len hp =>
    exact hs.of_kept (by rw [hp]; rfl) { sameTables_skip s (lengthExtra j) with }
  | distCode k len d n hp => exact hs.of_kept (by rw [hp]; rfl) { sameTables_skip s n with }
  | copy k len d dist hp =>
    exact hs.of_kept (by rw [hp]; rfl)
      { (sameTables_skip s (distExtra d)).trans (sameTables_copyBytes _ dist len) with }
  | _ => exact .of_none rfl

end Sys2Proof.Machine

namespace Sys2Proof.Machine

/-! ### The counts of the next mode (R102, R106 to R109) -/

theorem phaseOk_endBlock (s : State) : phaseOk s.endBlock.phase = true := by
  unfold State.endBlock
  split_ifs <;> rfl

/-- An element step leaves a decode mode whose counts are in range, whatever the spaces hold. -/
theorem phaseOk_of_move {s t : State} (hmode : phaseOk s.phase = true) (h : DecodeMove s t) :
    phaseOk t.phase = true := by
  cases h with
  | storedLen len =>
    have := len.isLt
    simp [phaseOk]
    omega
  | storedData payload => exact phaseOk_endBlock _
  | dynHdr nl nd nc => simp [phaseOk]; omega
  | dynClLen v nl nd nc j hp hr hj =>
    rw [hp] at hmode
    simp only [phaseOk, Bool.and_eq_true, decide_eq_true_eq] at hmode ⊢
    omega
  | dynClLast v nl nd nc j lens hp =>
    rw [hp] at hmode
    simp only [phaseOk, Bool.and_eq_true, decide_eq_true_eq] at hmode
    exact phaseOk_dynLens_iff.2 ⟨by omega, by omega, by simp; omega, nofun⟩
  | codeLength k n x nl nd seq hp hr hlen =>
    rw [hp, phaseOk_dynLens_iff] at hmode
    obtain ⟨hnl, hnd, -, hseq⟩ := hmode
    exact phaseOk_dynLens_iff.2 ⟨hnl, hnd, hlen, expandPair_le hseq _⟩
  | lastCodeLength k n x nl nd seq t hp hr hlen hl =>
    rw [(dynamicLoaded_of_lastCodeLength hmode hp hlen hl).phase]
    rfl
  | literal k b n hp => simpa using hmode
  | endOfBlock k n => exact phaseOk_endBlock _
  | lengthCode k sym n hp hr hlo hhi => simp [phaseOk, hlo, hhi]
  | lengthExtra k j len hp hr hlo hhi => simp [phaseOk, hlo, hhi]
  | distCode k len d n hp hr hd =>
    rw [hp] at hmode
    simp only [phaseOk, Bool.and_eq_true, decide_eq_true_eq] at hmode ⊢
    exact ⟨hmode, hd⟩
  | _ => rfl

/-! ### Commands -/

/-- A command does to the tables what its body does; its error, what an error does. -/
theorem command_tables {k : ErrorKeep} {body : State → Except HwError State} {s t : State}
    (hbody : ∀ u, body s.begin = .ok u → TablesStep s.begin u) (h : command k body s = .next t) :
    TablesStep s t := by
  rcases command_next.1 h with ⟨u, hu, rfl⟩ | ⟨e, -, rfl⟩
  · exact { hbody u hu with }
  · exact { tablesStep_raise k e s.begin with }

/-- What the elements of a decode command do to the tables. -/
theorem runElements_tables {n : Nat} {s t : State} (hmode : phaseOk s.phase = true)
    (h : runElements n s = .next t) : TablesStep s t :=
  (runElements_keeps (P := fun u => phaseOk u.phase = true ∧ TablesStep s u)
    (fun _ _ ⟨hok, hu⟩ _ he =>
      have hmove := elementStep_move he
      ⟨phaseOk_of_move hok hmove, hu.trans (tablesStep_of_move hok hmove)⟩)
    ⟨hmode, .refl s⟩ h).2

theorem phaseOk_startStream (s : State) : phaseOk s.startStream.phase = true := by
  unfold State.startStream
  split_ifs <;> rfl

section
variable {s t : State}

theorem execBitinit_tables (h : execBitinit s = .next t) : TablesStep s t :=
  command_tables (fun u hu => by cases hu; exact .of_kept rfl rfl rfl) h

theorem execWrbits_tables (h : execWrbits s = .next t) : TablesStep s t := by
  refine command_tables (fun u hu => ?_) h
  split_ifs at hu
  cases hu
  exact .of_kept (State.appendBits_dtblLL ..) (State.appendBits_dtblD ..)
    (State.appendBits_dtblCL ..)

theorem execAlignw_tables (h : execAlignw s = .next t) : TablesStep s t :=
  command_tables (fun u hu => by cases hu; exact .of_kept rfl rfl rfl) h

theorem execAlignr_tables (h : execAlignr s = .next t) : TablesStep s t :=
  command_tables (fun u hu => by cases hu; exact .of_kept rfl rfl rfl) h

theorem execAdler32_tables (h : execAdler32 s = .next t) : TablesStep s t :=
  command_tables (fun u hu => by cases hu; exact .of_kept rfl rfl rfl) h

theorem execReservedCmd_tables {op : BitVec 8} (h : execReservedCmd op s = .next t) :
    TablesStep s t :=
  command_tables (fun u hu => by cases hu) h

theorem execCompress_tables (h : execCompress s = .next t) : TablesStep s t := by
  refine command_tables (fun u hu => ?_) h
  split_ifs at hu
  cases hu
  exact ⟨.inr (.inl ⟨_, rfl⟩), .inr (.inl ⟨_, rfl⟩), .inr (.inl ⟨_, rfl⟩)⟩

theorem execEncblk_tables (h : execEncblk s = .next t) : TablesStep s t := by
  refine command_tables (fun u hu => ?_) h
  split_ifs at hu
  cases hu
  exact ⟨.inr (.inl ⟨_, rfl⟩), .inr (.inl ⟨_, rfl⟩), .inr (.inl ⟨_, rfl⟩)⟩

theorem execRdbits_tables (h : execRdbits s = .next t) : TablesStep s t := by
  refine command_tables (fun u hu => ?_) h
  split_ifs at hu
  rcases readBits_cases s.begin.arg0.toNat s.begin with ⟨-, he⟩ | ⟨-, he⟩ <;> rw [he] at hu <;> cases hu
  exact .of_kept rfl rfl rfl

theorem execHbuild_tables (h : execHbuild s = .next t) : TablesStep s t := by
  refine command_tables (fun u hu => ?_) h
  split at hu <;> cases hu
  exact .of_kept (by simp) (by simp) (by simp)

theorem execHcanon_tables (h : execHcanon s = .next t) : TablesStep s t := by
  refine command_tables (fun u hu => ?_) h
  split at hu
  · cases hu
  · split_ifs at hu
    cases hu
    exact .of_kept (by simp) (by simp) (by simp)

theorem execHput_tables (h : execHput s = .next t) : TablesStep s t := by
  refine command_tables (fun u hu => ?_) h
  split at hu
  · cases hu
  · simp only at hu
    split_ifs at hu
    cases hu
    exact .of_kept (State.appendBits_dtblLL ..) (State.appendBits_dtblD ..)
      (State.appendBits_dtblCL ..)

/-- `HDBUILD` builds its table from the lengths `LEN_a` holds, if they are accepted (R191). -/
theorem execHdbuild_tables (h : execHdbuild s = .next t) : TablesStep s t := by
  refine command_tables (fun u hu => ?_) h
  split at hu
  · cases hu
  · next a _ =>
    rcases buildDecoder_cases a (s.begin.lens a) s.begin with ⟨hacc, he⟩ | ⟨-, he⟩ <;>
      rw [he] at hu <;> cases hu
    exact tablesStep_setDtbl _ (tableOfCode_lens hacc)

theorem execHdsym_tables (h : execHdsym s = .next t) : TablesStep s t := by
  refine command_tables (fun u hu => ?_) h
  split at hu
  · cases hu
  · split at hu <;> cases hu
    exact .of_kept rfl rfl rfl

theorem execMfind_tables (h : execMfind s = .next t) : TablesStep s t := by
  refine command_tables (fun u hu => ?_) h
  split_ifs at hu
  split at hu <;> cases hu <;> exact .of_kept rfl rfl rfl

theorem execTokenize_tables (h : execTokenize s = .next t) : TablesStep s t := by
  refine command_tables (fun u hu => ?_) h
  split_ifs at hu
  cases hu
  exact .of_kept rfl rfl rfl

theorem execDecblk_tables (h : execDecblk s = .next t) : TablesStep s t := by
  unfold execDecblk at h
  split_ifs at h
  · exact { runElements_tables (s := s.begin.startBlock) rfl h with }
  · cases h
    exact .of_kept rfl rfl rfl

theorem execDecompress_tables (h : execDecompress s = .next t) : TablesStep s t := by
  unfold execDecompress at h
  split_ifs at h
  · exact { runElements_tables (phaseOk_startStream s.begin) h with }
  · cases h
    exact .of_kept rfl rfl rfl

/-- A command keeps each table, leaves it unspecified, or builds it from accepted lengths. -/
theorem exec_tables {i : Instr} (hi : (encodeHost i).isSome = true) (h : exec i s = .next t) :
    TablesStep s t := by
  cases i with
  | compress => exact execCompress_tables h
  | decompress => exact execDecompress_tables h
  | bitinit => exact execBitinit_tables h
  | wrbits => exact execWrbits_tables h
  | rdbits => exact execRdbits_tables h
  | alignw => exact execAlignw_tables h
  | alignr => exact execAlignr_tables h
  | hbuild => exact execHbuild_tables h
  | hcanon => exact execHcanon_tables h
  | hput => exact execHput_tables h
  | hdbuild => exact execHdbuild_tables h
  | hdsym => exact execHdsym_tables h
  | mfind => exact execMfind_tables h
  | tokenize => exact execTokenize_tables h
  | encblk => exact execEncblk_tables h
  | decblk => exact execDecblk_tables h
  | adler32 => exact execAdler32_tables h
  | reservedCmd op => exact execReservedCmd_tables (op := op) h
  | zcompress => exact { execCompress_tables h with }
  | zdecompress => exact { execDecompress_tables h with }
  | rawcompress => exact { execCompress_tables h with }
  | rawdecompress => exact { execDecompress_tables h with }
  | _ => cases hi

end

/-! ### Every step -/

/-- A write by the host leaves the decode tables alone: they are read-only to it (R61). -/
theorem hostWrite_tables {sp i v : Nat} {s t : State} (h : s.hostWrite sp i v = .ok t) :
    TablesStep s t := by
  rcases hostWrite_ok h with ⟨-, hw⟩ | ⟨-, -, rfl⟩
  · rw [csrWrite_frame hw]
    exact .of_kept rfl rfl rfl
  · rw [spaceWrite_frame]
    exact .of_kept rfl rfl rfl

/-- Every step keeps each table, leaves it unspecified, or builds it from accepted lengths. -/
theorem step_tables {s t : State} (hmode : phaseOk s.phase = true) (h : step s = .next t) :
    TablesStep s t := by
  rcases step_cases h with rfl | ⟨-, i, rest, hi, he⟩ | ⟨x, rest, ha⟩ | ⟨-, he⟩
  · exact .refl _
  · exact { exec_tables hi he with }
  · rcases hostAccess_next ha with ⟨sp, i, v, hw⟩ | ⟨v, rfl⟩
    · exact { hostWrite_tables hw with }
    · exact .of_kept rfl rfl rfl
  · exact tablesStep_of_move hmode (elementStep_move he)

/-- A step between commands ends between commands: a command is one step (R92). -/
theorem commandMove_idle {s t : State} (h : CommandMove s t) (hp : s.phase = .idle) :
    t.phase = .idle := by
  induction h with
  | done u hb => exact hb.phase.trans hp
  | failed k e => simpa using hp
  | block n _ hr => exact runElements_next_idle hr
  | stream n hr => exact runElements_next_idle hr
  | framed v _ ih => exact ih hp

theorem hostAccess_phase {x : HostTxn} {s t : State} (h : hostAccess x s = .next t) :
    t.phase = s.phase := by
  rcases hostAccess_next h with ⟨sp, i, v, hw⟩ | ⟨v, rfl⟩
  · rcases hostWrite_ok hw with ⟨-, hc⟩ | ⟨-, -, rfl⟩
    · rw [csrWrite_frame hc]
    · rw [spaceWrite_frame]
  · rfl

theorem step_idle {s t : State} (hp : s.phase = .idle) (h : step s = .next t) :
    t.phase = .idle := by
  rcases step_cases h with rfl | ⟨-, i, rest, hi, he⟩ | ⟨x, rest, ha⟩ | ⟨hn, -⟩
  · exact hp
  · exact commandMove_idle (exec_move hi he) hp
  · exact (hostAccess_phase ha).trans hp
  · exact absurd hp hn

/-- Every step leaves in place the tables that the next mode reads, or has loaded them. -/
theorem modeTables_of_step {P : Alphabet → DecTable → List Nat → Prop}
    (hP : ∀ a t lens, TableOfCode a t → t = builtTable a lens → P a t lens) {s t : State}
    (hmode : phaseOk s.phase = true) (hs : s.ModeTables P) (h : step s = .next t) :
    t.ModeTables P := by
  by_cases hp : s.phase = .idle
  · exact .of_none (by rw [step_idle hp h]; rfl)
  · exact modeTables_of_move hP hmode hs (elementStep_move (step_of_decoding hp ▸ h))

/-- Settles O4: `step_tables` says what a step may leave in each table, and among the codewords of
accepted lengths none starts another (`tableOk_of_tableOfCode`); `modeTables_of_step` says that the tables
a mode reads are loaded, once for being built and once for being the table of the lengths in `LEN_a`. -/
theorem stepKeepsDecodeTables : Obligations.StepKeepsDecodeTables := by
  intro s t hinv h
  obtain ⟨-, -, -, -, hmode, -⟩ := (inv_iff s).1 hinv
  obtain ⟨hll, hd, hcl⟩ := step_tables hmode h
  rw [ctxOk_iff, ctxOk_iff, tablesFromLens_iff, tablesFromLens_iff]
  constructor
  · rintro ⟨⟨okLL, okD, okCL⟩, hs⟩
    exact ⟨⟨hll.tableOk okLL, hd.tableOk okD, hcl.tableOk okCL⟩,
      modeTables_of_step (fun _ _ _ _ he => he ▸ rfl) hmode hs h⟩
  · rintro ⟨⟨fromLL, fromD, fromCL⟩, hs⟩
    exact ⟨⟨hll.tableFromLens fromLL, hd.tableFromLens fromD, hcl.tableFromLens fromCL⟩,
      modeTables_of_step (fun _ _ _ _ he => he) hmode hs h⟩

end Sys2Proof.Machine

/-! ## The stream elements in their own mode (R273 to R285)

One equation per shared operation, and the obligations about the elements that are instances of it. -/

namespace Sys2Proof.Machine

/-! ### Block headers (R273, R275) -/

theorem headerElement_of_phase {s : State} (f : Bool) (bt : BitVec 2) (g : State → State)
    (hp : s.phase = .blockHdr) : headerElement f bt g s =
      .next (g { s.skip 3 with run := { s.run with bfinal := f, btype := bt } }) := by
  simp only [headerElement, hp]

/-- `LoadFixed` changes the lengths, the tables and the mode alone. -/
theorem loadFixed_frame (s : State) : s.loadFixed = { s with
    lenLL := s.loadFixed.lenLL, lenD := s.loadFixed.lenD, dtblLL := fixedTable .ll
    dtblD := fixedTable .d, phase := .data .fixed } := by
  unfold State.loadFixed
  generalize fixedTable .ll = ll, fixedTable .d = d
  rfl

theorem loadFixed_lens_ll (s : State) : s.loadFixed.lens .ll = fixedLenLL := by
  have hkept : s.loadFixed.lenLL = (s.setLens .ll fixedLenLL).lenLL := by
    unfold State.loadFixed
    generalize fixedTable .ll = ll, fixedTable .d = d
    rfl
  rw [lens_congr_ll hkept, lens_setLens_self s length_fixedLenLL fixedLenLL_le]

theorem loadFixed_lens_d (s : State) : s.loadFixed.lens .d = fixedLenD := by
  have hkept : s.loadFixed.lenD = ((s.setLens .ll fixedLenLL).setLens .d fixedLenD).lenD := by
    unfold State.loadFixed
    generalize fixedTable .ll = ll, fixedTable .d = d
    rfl
  rw [lens_congr_d hkept, lens_setLens_self _ length_fixedLenD fixedLenD_le]

/-- An entry of `LEN_a`, from all of them. -/
theorem lenAt_eq_getD_lens (s : State) {a : Alphabet} {k : Nat} (hk : k < a.nlen) :
    s.lenAt a k = (s.lens a).getD k 0 := by
  simp [State.lens, hk]

/-- Settles O48: each header is `headerElement` with what its type does next. -/
theorem blockHeaders : Obligations.BlockHeaders := by
  intro s f hp
  refine ⟨headerElement_of_phase f 0 (fun t => { t with phase := .storedLen }) hp,
    headerElement_of_phase f 2 (fun t => { t with phase := .dynHdr }) hp,
    ⟨_, headerElement_of_phase f 1 _ hp, loadFixed_frame _, fun k hk => ?_, fun k hk => ?_⟩,
    _, headerElement_of_phase f 3 _ hp, keptAfterDecodeError_raiseDecode _ nofun⟩
  · rw [lenAt_eq_getD_lens _ hk, loadFixed_lens_ll]
  · rw [lenAt_eq_getD_lens _ hk, loadFixed_lens_d]
    rw [fixedLenD, List.getD_replicate _ hk]

/-! ### Stored blocks (R274) -/

/-- Output bytes change the output and its cursor alone. -/
theorem outBytes_frame (bs : List Byte) (s : State) : s.outBytes bs =
    { s with obuf := (s.outBytes bs).obuf, wpos := s.wpos + 8 * bs.length } := by
  cases bs <;> rfl

theorem execStoredLen_accepted {s : State} {len nlen : BitVec 16} (hp : s.phase = .storedLen)
    (h : nlen = len ^^^ 0xFFFF) : execStoredLen len nlen s =
      .next { s.alignR.skip 32 with phase := .storedData len.toNat } := by
  simp only [execStoredLen, hp, if_pos h]

theorem execStoredLen_refused {s : State} {len nlen : BitVec 16} (hp : s.phase = .storedLen)
    (h : nlen ≠ len ^^^ 0xFFFF) : execStoredLen len nlen s =
      .next (s.raiseDecode .invalidStoredLength) := by
  simp only [execStoredLen, hp, if_neg h]

/-- Settles O49: the complement decides `STORED_LEN`; the bytes of `STORED_DATA` are `OutByte`'s. -/
theorem storedElements : Obligations.StoredElements := by
  refine ⟨fun s len nlen hp => ⟨fun h => execStoredLen_accepted hp h, fun h =>
    ⟨_, execStoredLen_refused hp h, keptAfterDecodeError_raiseDecode s nofun⟩⟩, ?_⟩
  intro s payload hp halign
  have holen : s.olen = s.wpos / 8 := by rw [State.olen_eq]; omega
  refine ⟨(s.skip (8 * payload.length)).outBytes payload, if_pos hp, outBytes_frame _ _,
    fun i hi => ?_, fun a ha => ?_⟩
  · rw [holen]
    exact obufAt_outBytes payload (s.skip _) i hi
  · rw [holen] at ha
    exact obufAt_outBytes_of_outside payload (s.skip _) a ha

/-! ### Literals and the codewords of matches (R281, R284) -/

theorem literalElement_of_phase {s : State} {k : BlockKind} (b : Byte) (n : Nat)
    (hp : s.phase = .data k) : literalElement k b n s = .next ((s.skip n).outBytes [b]) := if_pos hp

theorem lengthCodeElement_of_phase {s : State} {k : BlockKind} (sym n : Nat)
    (hp : s.phase = .data k) :
    lengthCodeElement k sym n s = .next { s.skip n with phase := .lenExtra k sym } := if_pos hp

theorem distCodeElement_of_phase {s : State} {k : BlockKind} {length : Nat} (d n : Nat)
    (hp : s.phase = .distCode k length) :
    distCodeElement k d n s = .next { s.skip n with phase := .distExtra k length d } := by
  simp only [distCodeElement, hp, if_true]

theorem lengthElement_of_phase {s : State} {k : BlockKind} {j : Nat} (x : Nat)
    (hp : s.phase = .lenExtra k (257 + j)) : lengthElement j x s =
      .next { s.skip (lengthExtra j) with phase := .distCode k (lengthBase j + x) } := by
  simp only [lengthElement, hp, if_true]

/-- Settles O50: a literal is `literalElement`, which puts out its byte at the cursor. -/
theorem literalElements : Obligations.LiteralElements := by
  intro i kind sym n s hi hp halign
  have hbyte : (s.skip n).outBytes [sym] = { s with
      rpos := s.rpos + n, wpos := s.wpos + 8, obuf := s.obuf.write s.olen sym } := by
    rw [show s.olen = s.wpos / 8 by rw [State.olen_eq]; omega]
    rfl
  rw [← hbyte]
  rcases hi with ⟨rfl, rfl, rfl⟩ | ⟨rfl, rfl, rfl⟩ | ⟨m, rfl, rfl, rfl⟩ <;>
    exact literalElement_of_phase sym _ hp

/-- Settles O52: the codewords are `lengthCodeElement` and `distCodeElement`. -/
theorem matchCodewords : Obligations.MatchCodewords := by
  constructor
  · intro i kind sym n s hi hp
    rcases hi with ⟨rfl, rfl, rfl⟩ | ⟨rfl, rfl, rfl⟩ | ⟨m, rfl, rfl, rfl⟩ <;>
      exact lengthCodeElement_of_phase _ _ hp
  · intro i kind d n length s hi hp
    rcases hi with ⟨rfl, rfl, rfl⟩ | ⟨m, rfl, rfl, rfl⟩ <;> exact distCodeElement_of_phase _ _ hp

/-- Settles O54: all 29 rows are `lengthElement` with the symbol's fields. -/
theorem lengthSymbols : Obligations.LengthSymbols := by
  intro i k x kind s hf hp
  obtain ⟨he, hlo, hhi⟩ := execElement_of_lengthFields hf s
  rw [exec_eq_execElement (encodeHost_of_lengthFields hf), he]
  exact ⟨lengthElement_of_phase x hp, hlo, hhi⟩

/-! ### The header of a dynamic block (R276, R277) -/

theorem execDynHdr_refused {s : State} {hlit hdist : BitVec 5} (hclen : BitVec 4)
    (hp : s.phase = .dynHdr) (h : 286 < hlit.toNat + 257 ∨ 30 < hdist.toNat + 1) :
    execDynHdr hlit hdist hclen s = .next (s.raiseDecode .invalidHuffmanCode) := by
  simp only [execDynHdr, hp, if_pos h]

theorem execDynHdr_accepted {s : State} {hlit hdist : BitVec 5} (hclen : BitVec 4)
    (hp : s.phase = .dynHdr) (h : ¬(286 < hlit.toNat + 257 ∨ 30 < hdist.toNat + 1)) :
    execDynHdr hlit hdist hclen s =
      .next { (s.skip 14).setLens .cl (List.replicate 19 0) with
        phase := .dynClLen (hlit.toNat + 257) (hdist.toNat + 1) (hclen.toNat + 4) 0 } := by
  simp only [execDynHdr, hp, if_neg h]

/-- The state once field `j` of the code-length code is read (R277). -/
def State.withClLen (s : State) (j : Nat) (v : BitVec 3) : State :=
  { s.skip 3 with lenCL := s.lenCL.write (clOrder.getD j 0) v }

theorem execDynClLen_more {s : State} {nl nd nc j : Nat} (v : BitVec 3)
    (hp : s.phase = .dynClLen nl nd nc j) (h : j + 1 < nc) : execDynClLen v s =
      .next { s.withClLen j v with phase := .dynClLen nl nd nc (j + 1) } := by
  simp only [execDynClLen, hp, if_pos h]
  rfl

theorem execDynClLen_built {s : State} {nl nd nc j : Nat} {v : BitVec 3}
    (hp : s.phase = .dynClLen nl nd nc j) (h : nc ≤ j + 1)
    (hacc : codeAccepted .cl ((s.withClLen j v).lens .cl) = true) : execDynClLen v s =
      .next { (s.withClLen j v).setDtbl .cl (builtTable .cl ((s.withClLen j v).lens .cl)) with
        phase := .dynLens nl nd [] } := by
  have hb : (s.withClLen j v).buildDecoder .cl ((s.withClLen j v).lens .cl) =
      .ok ((s.withClLen j v).setDtbl .cl (builtTable .cl ((s.withClLen j v).lens .cl))) :=
    if_pos hacc
  unfold State.withClLen at hb ⊢
  simp only [execDynClLen, hp, if_neg (Nat.not_lt.2 h), hb]

theorem execDynClLen_refused {s : State} {nl nd nc j : Nat} {v : BitVec 3}
    (hp : s.phase = .dynClLen nl nd nc j) (h : nc ≤ j + 1)
    (hacc : codeAccepted .cl ((s.withClLen j v).lens .cl) = false) : execDynClLen v s =
      .next (s.raiseDecode .invalidHuffmanCode) := by
  have hb : (s.withClLen j v).buildDecoder .cl ((s.withClLen j v).lens .cl) =
      .error .invalidHuffmanCode := if_neg (by simp [hacc])
  unfold State.withClLen at hb
  simp only [execDynClLen, hp, if_neg (Nat.not_lt.2 h), hb]

/-- The code-length code is accepted exactly when it is complete (R192). -/
theorem codeAccepted_cl_iff (lens : List Nat) :
    codeAccepted .cl lens = true ↔ kraftSum 7 lens = 2 ^ 7 := by
  simp [codeAccepted, Alphabet.maxBits]

/-- Settles O56: the counts decide `DYN_HDR`, the last code length the code-length code. -/
theorem dynamicHeader : Obligations.DynamicHeader := by
  constructor
  · intro s hlit hdist hclen hp
    refine ⟨fun h => ⟨_, execDynHdr_refused hclen hp h, keptAfterDecodeError_raiseDecode s nofun⟩,
      fun hnl hnd => ⟨_, execDynHdr_accepted hclen hp (by omega), rfl, fun k hk => ?_⟩⟩
    have hzero := lens_setLens_self (s.skip 14) (a := .cl) (lens := List.replicate 19 0) rfl
      (by decide)
    refine (lenAt_eq_getD_lens _ hk).trans ?_
    refine (congrArg (List.getD · k 0) ((lens_congr_cl rfl).trans hzero)).trans ?_
    exact List.getD_replicate _ hk
  · intro s v nl nd nc j hp lens
    have hlens : (s.withClLen j v).lens .cl = lens := lens_congr_cl rfl
    refine ⟨execDynClLen_more v hp, fun hj hk => ?_, fun hj hk => ?_⟩
    · have hacc := (codeAccepted_cl_iff lens).2 hk
      refine (execDynClLen_built hp hj (hlens ▸ hacc)).trans ?_
      rw [hlens]
      rfl
    · have hacc : codeAccepted .cl lens = false :=
        Bool.eq_false_iff.2 fun h => hk ((codeAccepted_cl_iff lens).1 h)
      exact ⟨_, execDynClLen_refused hp hj (hlens ▸ hacc),
        keptAfterDecodeError_raiseDecode s nofun⟩

/-! ### The lengths of a dynamic block (R278, R279) -/

/-- The literal/length code lengths of a full sequence: its first `nl`, then zeros (R279). -/
def sentLensLL (nl : Nat) (seq : List Nat) : List Nat := seq.take nl ++ List.replicate (288 - nl) 0

/-- The distance code lengths of a full sequence: the rest of it, then zeros (R279). -/
def sentLensD (nl : Nat) (seq : List Nat) : List Nat :=
  seq.drop nl ++ List.replicate (32 - (seq.length - nl)) 0

/-- `LoadDynamic` refuses a code without symbol 256 and a code that is not accepted (R279). -/
theorem loadDynamic_refused {nl : Nat} {seq : List Nat} (s : State)
    (h : (sentLensLL nl seq).getD 256 0 = 0 ∨ codeAccepted .ll (sentLensLL nl seq) = false ∨
      codeAccepted .d (sentLensD nl seq) = false) :
    s.loadDynamic nl seq = .error .invalidHuffmanCode := by
  rcases h with h | h
  · exact if_pos h
  · rcases loadDynamic_cases nl seq s with he | ⟨ll, d, hll, hd, -, rfl, rfl⟩
    · exact he
    · unfold sentLensLL sentLensD at h
      simp [hll, hd] at h

theorem loadDynamic_accepted {nl : Nat} {seq : List Nat} (s : State)
    (h256 : (sentLensLL nl seq).getD 256 0 ≠ 0) (hll : codeAccepted .ll (sentLensLL nl seq) = true)
    (hd : codeAccepted .d (sentLensD nl seq) = true) :
    s.loadDynamic nl seq = .ok { (s.setLens .ll (sentLensLL nl seq)).setLens .d (sentLensD nl seq) with
      dtblLL := builtTable .ll (sentLensLL nl seq), dtblD := builtTable .d (sentLensD nl seq)
      phase := .data .dynamic } := by
  unfold sentLensLL at h256 hll ⊢
  unfold sentLensD at hd ⊢
  simp only [State.loadDynamic, if_neg h256, State.buildDecoder, if_pos hll, if_pos hd]
  rfl

theorem extendLens_overrun {nl nd : Nat} {seq : List Nat} (s : State) (h : nl + nd < seq.length) :
    s.extendLens nl nd seq = .error .invalidHuffmanCode := if_pos h

theorem extendLens_full {nl nd : Nat} {seq : List Nat} (s : State) (h : seq.length = nl + nd) :
    s.extendLens nl nd seq = s.loadDynamic nl seq :=
  (if_neg (by omega)).trans (if_pos h)

theorem extendLens_more {nl nd : Nat} {seq : List Nat} (s : State) (h : seq.length < nl + nd) :
    s.extendLens nl nd seq = .ok { s with phase := .dynLens nl nd seq } :=
  (if_neg (by omega)).trans (if_neg (by omega))

section
variable {k n x nl nd : Nat} {seq : List Nat} {s : State}

/-- Symbol 16 with nothing to repeat is refused (R278). -/
theorem clElement_nothing (hp : s.phase = .dynLens nl nd seq) (h : k = 16 ∧ seq = []) :
    clElement k n x s = .next (s.raiseDecode .invalidHuffmanCode) := by
  simp only [clElement, hp, if_pos h]

theorem clElement_of_ok {t : State} (hp : s.phase = .dynLens nl nd seq) (h : ¬(k = 16 ∧ seq = []))
    (hext : (s.skip (n + clExtra k)).extendLens nl nd (expandPair seq (k, x)) = .ok t) :
    clElement k n x s = .next t := by
  unfold expandPair at hext
  simp only [clElement, hp, if_neg h, hext]

theorem clElement_of_error {e : HwError} (hp : s.phase = .dynLens nl nd seq)
    (h : ¬(k = 16 ∧ seq = []))
    (hext : (s.skip (n + clExtra k)).extendLens nl nd (expandPair seq (k, x)) = .error e) :
    clElement k n x s = .next (s.raiseDecode e) := by
  unfold expandPair at hext
  simp only [clElement, hp, if_neg h, hext]

end

/-- Settles O57: all 19 rows are `clElement` with the symbol's fields; its lengths are those of
`expandPair`, and `extendLens` tells an overrun, a full sequence and one to be continued apart. -/
theorem codeLengthSymbols : Obligations.CodeLengthSymbols := by
  intro i k n x nl nd seq s hf hp more all ll d
  have hexec : exec i s = clElement k n x s :=
    (exec_eq_execElement (encodeHost_of_clFields hf) s).trans (execElement_of_clFields hf s)
  rw [hexec]
  refine ⟨fun h => ⟨_, ?_, keptAfterDecodeError_raiseDecode (e := .invalidHuffmanCode) s nofun⟩,
    fun hrep hlen => clElement_of_ok hp hrep (extendLens_more _ hlen),
    fun hrep hlen h256 hll hd => clElement_of_ok hp hrep
      ((extendLens_full _ hlen).trans (loadDynamic_accepted _ h256 hll hd))⟩
  by_cases hrep : k = 16 ∧ seq = []
  · exact clElement_nothing hp hrep
  · refine clElement_of_error hp hrep ?_
    rcases h with h | h | ⟨hlen, h⟩
    · exact absurd h hrep
    · exact extendLens_overrun _ h
    · exact (extendLens_full _ hlen).trans (loadDynamic_refused _ h)

end Sys2Proof.Machine

/-! ## Elements step by step (R92, R100, R288, R316)

What the decoder reads is well formed, so of two elements in a row at least one consumes a bit; an element
in its own mode has a next state. So the elements of a decode command come to an end, and the command does
what the machine does when it steps through them. -/

namespace Sys2Proof

/-! ### What the decoder reads is well formed -/

theorem wellFormed_of_lengthFields {i : Instr} {p : Nat × Nat} (h : i.lengthFields = some p) :
    i.wellFormed = true := by
  cases i <;> cases h <;> rfl

theorem wellFormed_of_distFields {i : Instr} {p : Nat × Nat} (h : i.distFields = some p) :
    i.wellFormed = true := by
  cases i <;> cases h <;> rfl

theorem wellFormed_header (f : Bool) (bt : Nat) : Instr.wellFormed
    ([.blockStored f, .blockFixed f, .blockDynamic f, .blockReserved f].getD bt
      (.blockReserved f)) = true :=
  match bt with
  | 0 | 1 | 2 | 3 | _ + 4 => rfl

/-- A code-length element is well formed when its codeword has a length the alphabet admits (R109). -/
theorem wellFormed_of_clFields {i : Instr} {k n x : Nat} (h : i.clFields = some (k, n, x))
    (hpos : 1 ≤ n) (hmax : n ≤ 7) : i.wellFormed = true := by
  cases i <;> cases h <;> simp [Instr.wellFormed, codeLenOk, hpos, hmax]

theorem codeLenOk_ofNat {maxBits n : Nat} (hpos : 1 ≤ n) (hmax : n ≤ maxBits) (h16 : maxBits < 16) :
    codeLenOk maxBits (BitVec.ofNat 4 n) = true := by
  have e : (BitVec.ofNat 4 n).toNat = n := Nat.mod_eq_of_lt (by omega)
  simp [codeLenOk, e, hpos, hmax]

theorem wellFormed_of_fixedElem {sym : Nat} {i : Instr} (h : fixedElem sym = some i) :
    i.wellFormed = true := by
  have e8 : sym < 256 → (BitVec.ofNat 8 sym).toNat = sym := fun h => Nat.mod_eq_of_lt h
  have e9 : sym < 512 → (BitVec.ofNat 9 sym).toNat = sym := fun h => Nat.mod_eq_of_lt h
  unfold fixedElem at h
  split_ifs at h with h1 h2 h3 h4 h5 h6 <;> cases h <;> simp only [Instr.wellFormed]
  · rw [e8 (by omega)]; simpa using h1
  · rw [e8 (by omega)]; simp; omega
  · rw [e9 (by omega)]; simp; omega
  · rw [e9 (by omega)]; simp; omega
  · rw [e9 (by omega)]; simp; omega

theorem wellFormed_of_dynElem {sym n : Nat} {i : Instr} (h : dynElem sym n = some i)
    (hpos : 1 ≤ n) (hmax : n ≤ 15) : i.wellFormed = true := by
  have hn := codeLenOk_ofNat hpos hmax (by decide)
  unfold dynElem at h
  split_ifs at h with h1 h2 h3 <;> cases h
  · exact hn
  · exact hn
  · have e : (BitVec.ofNat 9 sym).toNat = sym := Nat.mod_eq_of_lt (by omega)
    simp [Instr.wellFormed, hn, e]
    omega

/-- An entry of the table of accepted lengths that marks a codeword marks one of a legal length (R191). -/
theorem decodeSym_le_maxBits {a : Alphabet} {t : DecTable} {bit : Nat → Bool} {rem sym n : Nat}
    (h : decodeSym a t bit rem = .ok (sym, n)) (ht : TableOfCode a t) : n ≤ a.maxBits := by
  obtain ⟨lens, -, hmax, -, rfl⟩ := ht
  obtain ⟨hpos, -, he⟩ := decodeSym_ok h
  exact hmax n (List.mem_of_getElem? (entry_builtTable he hpos))

theorem decodeSym_pos {a : Alphabet} {t : DecTable} {bit : Nat → Bool} {rem sym n : Nat}
    (h : decodeSym a t bit rem = .ok (sym, n)) : 1 ≤ n := (decodeSym_ok h).1

end Sys2Proof

namespace Sys2Proof.Machine

/-- The decode mode's counts are in range, and the tables it reads are those of accepted lengths. -/
structure State.Decodes (s : State) : Prop where
  mode : phaseOk s.phase = true
  tables : s.ModeTables fun a t _ => TableOfCode a t

theorem decodes_of_move {s t : State} (hs : s.Decodes) (h : DecodeMove s t) : t.Decodes :=
  ⟨phaseOk_of_move hs.mode h, modeTables_of_move (fun _ _ _ hc _ => hc) hs.mode hs.tables h⟩

section
variable {s : State} {i : Instr} {n : Nat}

/-- What the decoder reads in a decode command is well formed (R101 to R109). -/
theorem wellFormed_of_decodeElem (hs : s.Decodes)
    (h : decodeElem s.ctx s.streamBit s.remaining = .ok (i, n)) : i.wellFormed = true := by
  have htbl := hs.tables
  unfold State.ModeTables at htbl
  unfold decodeElem at h
  split at h
  case h_1 => cases h
  case h_2 => obtain ⟨-, rfl⟩ := readElem_ok h; rfl
  case h_3 =>
    obtain ⟨-, rfl⟩ := readElem_ok h
    exact wellFormed_header _ _
  case h_4 => obtain ⟨-, rfl⟩ := readElem_ok h; rfl
  case h_5 len hp =>
    have hmode := hs.mode
    rw [show s.phase = _ from hp] at hmode
    split at h <;> cases h
    simpa [Instr.wellFormed, phaseOk] using hmode
  case h_6 => obtain ⟨-, rfl⟩ := readElem_ok h; rfl
  case h_7 => obtain ⟨-, rfl⟩ := readElem_ok h; rfl
  case h_8 nl nd seq hp =>
    rw [show s.phase = _ from hp] at htbl
    unfold decodeClElem at h
    split at h
    · cases h
    · next hsym =>
      split_ifs at h
      have hle := decodeSym_le_maxBits hsym htbl
      refine wellFormed_of_clFields (clElem_fields (elemOr_ok h)) ?_ ?_ <;>
        rw [Nat.mod_eq_of_lt (Nat.lt_of_le_of_lt hle (by decide))]
      · exact decodeSym_pos hsym
      · exact hle
  case h_9 =>
    split at h
    · cases h
    · exact wellFormed_of_fixedElem (elemOr_ok h)
  case h_10 hp =>
    rw [show s.phase = _ from hp] at htbl
    split at h
    · cases h
    · next hsym =>
      exact wellFormed_of_dynElem (elemOr_ok h) (decodeSym_pos hsym)
        (decodeSym_le_maxBits hsym htbl.1)
  case h_11 =>
    simp only at h
    split_ifs at h
    · exact wellFormed_of_lengthFields (lengthElem_fields (elemOr_ok h))
    · cases h
  case h_12 =>
    split at h
    · cases h
    · have hi := elemOr_ok h
      split_ifs at hi
      cases hi
      rfl
  case h_13 hp =>
    rw [show s.phase = _ from hp] at htbl
    split at h
    · cases h
    · next hsym =>
      have hi := elemOr_ok h
      split_ifs at hi with hd
      cases hi
      have hn : codeLenOk 15 _ = true :=
        codeLenOk_ofNat (decodeSym_pos hsym) (decodeSym_le_maxBits hsym htbl.2) (by decide)
      have e : (BitVec.ofNat 5 _).toNat = _ := Nat.mod_eq_of_lt (Nat.lt_of_le_of_lt hd (by decide))
      simp [Instr.wellFormed, hn, e, hd]
  case h_14 =>
    simp only at h
    split_ifs at h
    exact wellFormed_of_distFields (distElem_fields (elemOr_ok h))
  case h_15 => obtain ⟨-, rfl⟩ := readElem_ok h; rfl

/-! ### An element in its own mode has a next state -/

theorem distElement_of_phase {k : BlockKind} {length d : Nat} (x : Nat)
    (hp : s.phase = .distExtra k length d) : ∃ t, distElement d x s = .next t := by
  by_cases h : distBase d + x ≤ s.window ∧ distBase d + x ≤ s.olen
  · exact ⟨_, distElement_within hp h.1 h.2⟩
  · exact ⟨_, distElement_beyond hp (by omega)⟩

theorem distInvalidElement_of_phase {k : BlockKind} {length d : Nat}
    (hp : s.phase = .distExtra k length d) :
    distInvalidElement d s = .next (s.raiseDecode .invalidHuffmanCode) := by
  simp only [distInvalidElement, hp, if_true]

theorem clElement_of_phase {nl nd : Nat} {seq : List Nat} (k n x : Nat)
    (hp : s.phase = .dynLens nl nd seq) : ∃ t, clElement k n x s = .next t := by
  by_cases hrep : k = 16 ∧ seq = []
  · exact ⟨_, clElement_nothing hp hrep⟩
  · cases hext : (s.skip (n + clExtra k)).extendLens nl nd (expandPair seq (k, x)) with
    | ok t => exact ⟨t, clElement_of_ok hp hrep hext⟩
    | error e => exact ⟨_, clElement_of_error hp hrep hext⟩

theorem execDynClLen_of_phase {nl nd nc j : Nat} (v : BitVec 3)
    (hp : s.phase = .dynClLen nl nd nc j) : ∃ t, execDynClLen v s = .next t := by
  rcases Nat.lt_or_ge (j + 1) nc with hj | hj
  · exact ⟨_, execDynClLen_more v hp hj⟩
  · cases hacc : codeAccepted .cl ((s.withClLen j v).lens .cl) with
    | true => exact ⟨_, execDynClLen_built hp hj hacc⟩
    | false => exact ⟨_, execDynClLen_refused hp hj hacc⟩

theorem execDynHdr_of_phase (hlit hdist : BitVec 5) (hclen : BitVec 4) (hp : s.phase = .dynHdr) :
    ∃ t, execDynHdr hlit hdist hclen s = .next t := by
  by_cases h : 286 < hlit.toNat + 257 ∨ 30 < hdist.toNat + 1
  · exact ⟨_, execDynHdr_refused hclen hp h⟩
  · exact ⟨_, execDynHdr_accepted hclen hp h⟩

theorem execStoredLen_of_phase (len nlen : BitVec 16) (hp : s.phase = .storedLen) :
    ∃ t, execStoredLen len nlen s = .next t := by
  by_cases h : nlen = len ^^^ 0xFFFF
  · exact ⟨_, execStoredLen_accepted hp h⟩
  · exact ⟨_, execStoredLen_refused hp h⟩

theorem execZlibHdr_of_phase (cmf flg : BitVec 8) (hp : s.phase = .zlibHdr) :
    ∃ t, execZlibHdr cmf flg s = .next t := by
  simp only [execZlibHdr, hp]
  split_ifs <;> exact ⟨_, rfl⟩

theorem execZlibAdler_of_phase (v : BitVec 32) (hp : s.phase = .zlibAdler) :
    ∃ t, execZlibAdler v s = .next t := by
  simp only [execZlibAdler, hp]
  split_ifs <;> exact ⟨_, rfl⟩

/-- An element that stands at the cursor has a next state (R100, R112). -/
theorem execElement_of_elementAt {rem : Nat} (hi : ElementAt s.ctx rem i) :
    ∃ t, execElement i s = .next t := by
  cases hi with
  | zlibHdr cmf flg hp => exact execZlibHdr_of_phase cmf flg hp
  | blockStored f hp => exact ⟨_, headerElement_of_phase f 0 (fun t => { t with phase := .storedLen }) hp⟩
  | blockFixed f hp => exact ⟨_, headerElement_of_phase f 1 _ hp⟩
  | blockDynamic f hp => exact ⟨_, headerElement_of_phase f 2 (fun t => { t with phase := .dynHdr }) hp⟩
  | blockReserved f hp => exact ⟨_, headerElement_of_phase f 3 _ hp⟩
  | storedLen len nlen hp => exact execStoredLen_of_phase len nlen hp
  | storedData payload hp => exact ⟨_, if_pos hp⟩
  | dynHdr hlit hdist hclen hp => exact execDynHdr_of_phase hlit hdist hclen hp
  | dynClLen v nl nd nc j hp => exact execDynClLen_of_phase v hp
  | codeLength _ k n x nl nd seq hp hf =>
    rw [execElement_of_clFields hf]
    exact clElement_of_phase k n x hp
  | fixedLit0To143 sym hp => exact ⟨_, literalElement_of_phase sym 8 hp⟩
  | fixedLit144To255 sym hp => exact ⟨_, literalElement_of_phase sym 9 hp⟩
  | fixedEob hp => exact ⟨_, if_pos hp⟩
  | fixedLen257To279 sym hp => exact ⟨_, lengthCodeElement_of_phase _ 7 hp⟩
  | fixedLen280To285 sym hp => exact ⟨_, lengthCodeElement_of_phase _ 8 hp⟩
  | fixedLL286To287 sym hp => exact ⟨_, if_pos hp⟩
  | dynLit sym n hp => exact ⟨_, literalElement_of_phase sym n.toNat hp⟩
  | dynEob n hp => exact ⟨_, if_pos hp⟩
  | dynLen sym n hp => exact ⟨_, lengthCodeElement_of_phase _ n.toNat hp⟩
  | length _ k j x hp hf =>
    rw [(execElement_of_lengthFields hf s).1]
    exact ⟨_, lengthElement_of_phase x hp⟩
  | fixedDist d len hp => exact ⟨_, distCodeElement_of_phase d.toNat 5 hp⟩
  | dynDist d n len hp => exact ⟨_, distCodeElement_of_phase d.toNat n.toNat hp⟩
  | dist _ k len d x hp hf =>
    rcases execElement_of_distFields hf s with he | he <;> rw [he]
    · exact distElement_of_phase x hp
    · exact ⟨_, distInvalidElement_of_phase hp⟩
  | zlibAdler v hp => exact execZlibAdler_of_phase v hp

/-- Inside a decode command the decoder reads an element or raises an error (R111). -/
theorem decodeElem_ne_notDecoding {c : StreamCtx} {bit : Nat → Bool} {rem : Nat}
    (hp : c.phase ≠ .idle) : decodeElem c bit rem ≠ .error .notDecoding := by
  have read : ∀ {skip n : Nat} {mk : Nat → Instr},
      readElem bit rem skip n mk ≠ .error .notDecoding := by
    intro skip n mk h
    unfold readElem at h
    split at h <;> cases h
  have orElse : ∀ {o : Option Instr} {n : Nat}, elemOr o n ≠ .error .notDecoding := by
    intro o n h
    cases o <;> cases h
  have sym : ∀ {a : Alphabet} {t : DecTable}, decodeSym a t bit rem ≠ .error .notDecoding := by
    intro a t h
    rcases decodeSym_cases a t bit rem with ⟨-, he⟩ | ⟨-, -, he⟩ | ⟨-, -, he⟩ <;> rw [he] at h <;>
      cases h
  intro h
  unfold decodeElem at h
  split at h
  case h_1 hidle => exact hp hidle
  case h_5 => split at h <;> cases h
  case h_8 =>
    unfold decodeClElem at h
    split at h
    · next hs => cases h; exact sym hs
    · split_ifs at h
      · cases h
      · cases h
      · exact orElse h
  case h_11 | h_14 =>
    simp only at h
    split at h
    · cases h
    · exact orElse h
  case h_9 | h_10 | h_12 | h_13 =>
    split at h
    · next hs => cases h; exact sym hs
    · exact orElse h
  all_goals exact read h

/-- Inside a decode command an element step has a next state. -/
theorem exists_elementStep (hp : s.phase ≠ .idle) : ∃ t, elementStep s = .next t := by
  rcases elementStep_cases s with ⟨i, n, hd, he⟩ | ⟨e, -, he⟩ | ⟨hd, -⟩
  · rw [he]
    exact execElement_of_elementAt (decodeElem_elementAt hd)
  · exact ⟨_, he⟩
  · exact absurd hd (decodeElem_ne_notDecoding hp)

/-! ### The elements that can still follow -/

/-- The modes that an element may leave without a bit consumed (assumption log 13): no two stand in a
row. -/
def mayConsumeNothing : Phase → Bool
  | .lenExtra _ _ | .distExtra _ _ _ | .storedData _ => true
  | _ => false

/-- An upper bound of the elements that can follow the one at the cursor: two per remaining bit. -/
def State.elementsLeft (s : State) : Nat := 2 * s.remaining + (mayConsumeNothing s.phase).toNat

/-- An element that consumes a bit lowers the bound. -/
theorem elementsLeft_lt_of_consumed {t : State} (hn : 1 ≤ n) (hrem : n ≤ s.remaining)
    (hr : t.rpos = s.rpos + n) (hi : t.ilen = s.ilen) : t.elementsLeft < s.elementsLeft := by
  have := Bool.toNat_le (mayConsumeNothing t.phase)
  rw [State.remaining_eq] at hrem
  unfold State.elementsLeft
  rw [State.remaining_eq, State.remaining_eq, hr, hi]
  omega

/-- An element of a mode that may consume nothing lowers the bound by leaving it. -/
theorem elementsLeft_lt_of_left {t : State} (hs : mayConsumeNothing s.phase = true)
    (ht : mayConsumeNothing t.phase = false) (hr : s.rpos ≤ t.rpos) (hi : t.ilen = s.ilen) :
    t.elementsLeft < s.elementsLeft := by
  unfold State.elementsLeft
  rw [State.remaining_eq, State.remaining_eq, hs, ht, hi, Bool.toNat_true, Bool.toNat_false]
  omega

theorem mayConsumeNothing_endBlock (s : State) : mayConsumeNothing s.endBlock.phase = false := by
  rcases endBlock_cases s with ⟨-, he⟩ | ⟨-, -, he⟩ | ⟨-, -, -, he⟩ | ⟨-, -, -, he⟩ <;> rw [he] <;> rfl

theorem rpos_le_endBlock (s : State) : s.rpos ≤ s.endBlock.rpos := by
  have halign : s.rpos ≤ s.alignR.rpos := by rw [State.alignR_rpos]; omega
  rcases endBlock_cases s with ⟨-, he⟩ | ⟨-, -, he⟩ | ⟨-, -, -, he⟩ | ⟨-, -, -, he⟩
  · exact (congrArg State.rpos he).ge
  · exact (congrArg State.rpos he).ge
  · exact halign.trans (congrArg State.rpos he).ge
  · exact halign.trans (congrArg State.rpos he).ge

/-- The end of a block adds nothing to the bound. -/
theorem elementsLeft_endBlock_lt (hn : 1 ≤ n) (hrem : n ≤ s.remaining) :
    (s.skip n).endBlock.elementsLeft < s.elementsLeft := by
  have hcur := rpos_le_endBlock (s.skip n)
  rw [State.remaining_eq] at hrem
  rw [State.skip_rpos] at hcur
  unfold State.elementsLeft
  rw [mayConsumeNothing_endBlock, State.remaining_eq, State.remaining_eq, endBlock_ilen,
    State.skip_ilen, Bool.toNat_false]
  omega

theorem loadFixed_rpos (s : State) : s.loadFixed.rpos = s.rpos := by rw [loadFixed_frame]

theorem loadFixed_ilen (s : State) : s.loadFixed.ilen = s.ilen := by rw [loadFixed_frame]

/-- `LoadDynamic` leaves the input and its cursor alone. -/
theorem loadDynamic_cursor {nl : Nat} {seq : List Nat} {t : State}
    (h : s.loadDynamic nl seq = .ok t) : t.rpos = s.rpos ∧ t.ilen = s.ilen := by
  rcases loadDynamic_cases nl seq s with he | ⟨ll, d, -, -, he, -, -⟩ <;> rw [he] at h <;> cases h
  simp

theorem codeLenOk_pos {maxBits : Nat} {n : BitVec 4} (h : codeLenOk maxBits n = true) :
    1 ≤ n.toNat := by
  simp only [codeLenOk, Bool.and_eq_true, decide_eq_true_eq] at h
  exact h.1

theorem clFields_pos {k x : Nat} (hf : i.clFields = some (k, n, x)) (hw : i.wellFormed = true) :
    1 ≤ n := by
  cases i <;> cases hf <;> exact codeLenOk_pos hw

/-- Every element step ends the command or lowers the bound: of two elements in a row at least one
consumes a bit (R288(c), R316). -/
theorem execElement_progress {t : State} (hi : ElementAt s.ctx s.remaining i)
    (hw : i.wellFormed = true) (hfix : s.FixedLoaded) (h : execElement i s = .next t) :
    t.phase = .idle ∨ t.elementsLeft < s.elementsLeft := by
  cases hi with
  | zlibHdr cmf flg hp hr =>
    rcases execZlibHdr_next h with rfl | rfl
    · exact .inr (elementsLeft_lt_of_consumed (by decide) hr rfl rfl)
    · exact .inl rfl
  | blockStored f hp hr =>
    obtain ⟨-, rfl⟩ := headerElement_next (f := f) (g := fun u => { u with phase := .storedLen }) h
    exact .inr (elementsLeft_lt_of_consumed (by decide) hr rfl rfl)
  | blockFixed f hp hr =>
    obtain ⟨-, rfl⟩ := headerElement_next h
    exact .inr (elementsLeft_lt_of_consumed (by decide) hr (loadFixed_rpos _) (loadFixed_ilen _))
  | blockDynamic f hp hr =>
    obtain ⟨-, rfl⟩ := headerElement_next (f := f) (g := fun u => { u with phase := .dynHdr }) h
    exact .inr (elementsLeft_lt_of_consumed (by decide) hr rfl rfl)
  | blockReserved f hp hr => obtain ⟨-, rfl⟩ := headerElement_next h; exact .inl rfl
  | storedLen len nlen hp hr =>
    rcases execStoredLen_next h with rfl | rfl
    · refine .inr (elementsLeft_lt_of_consumed (by omega) hr ?_ rfl)
      show s.alignR.rpos + 32 = s.rpos + (alignPad (s.rpos % 8) + 32)
      rw [State.alignR_rpos, alignPad]
      omega
    · exact .inl rfl
  | storedData payload hp hr =>
    rw [execStoredData_next h]
    refine .inr (elementsLeft_lt_of_left (by rw [show s.phase = _ from hp]; rfl)
      (mayConsumeNothing_endBlock _) (Nat.le_trans ?_ (rpos_le_endBlock _)) (by simp))
    simp
  | dynHdr hlit hdist hclen hp hr =>
    rcases execDynHdr_next h with rfl | ⟨-, -, rfl⟩
    · exact .inl rfl
    · exact .inr (elementsLeft_lt_of_consumed (by decide) hr rfl rfl)
  | dynClLen v nl nd nc j hp hr =>
    rcases execDynClLen_next hp h with ⟨e, rfl⟩ | ⟨-, rfl⟩ | ⟨-, lens, -, -, rfl⟩
    · exact .inl rfl
    · exact .inr (elementsLeft_lt_of_consumed (by decide) hr rfl rfl)
    · exact .inr (elementsLeft_lt_of_consumed (by decide) hr rfl rfl)
  | codeLength _ k n x nl nd seq hp hf hr =>
    have hn := clFields_pos hf hw
    rw [execElement_of_clFields hf] at h
    rcases clElement_next hp h with ⟨e, rfl⟩ | ⟨-, rfl⟩ | ⟨-, hl⟩
    · exact .inl rfl
    · exact .inr (elementsLeft_lt_of_consumed (by omega) hr rfl rfl)
    · obtain ⟨hrpos, hilen⟩ := loadDynamic_cursor hl
      exact .inr (elementsLeft_lt_of_consumed (by omega) hr hrpos hilen)
  | fixedLit0To143 sym hp hr =>
    obtain ⟨-, rfl⟩ := literalElement_next h
    exact .inr (elementsLeft_lt_of_consumed (by decide) (State.Covers.of_fixedLL hp hr hfix)
      (by simp) (by simp))
  | fixedLit144To255 sym hp hr =>
    obtain ⟨-, rfl⟩ := literalElement_next h
    exact .inr (elementsLeft_lt_of_consumed (by decide) (State.Covers.of_fixedLL hp hr hfix)
      (by simp) (by simp))
  | fixedEob hp hr =>
    obtain ⟨-, rfl⟩ := eobElement_next h
    exact .inr (elementsLeft_endBlock_lt (by decide) (State.Covers.of_fixedLL hp hr hfix))
  | fixedLen257To279 sym hp hlo hhi hr =>
    obtain ⟨-, rfl⟩ := lengthCodeElement_next h
    exact .inr (elementsLeft_lt_of_consumed (by decide) (State.Covers.of_fixedLL hp hr hfix) rfl rfl)
  | fixedLen280To285 sym hp hlo hhi hr =>
    obtain ⟨-, rfl⟩ := lengthCodeElement_next h
    exact .inr (elementsLeft_lt_of_consumed (by decide) (State.Covers.of_fixedLL hp hr hfix) rfl rfl)
  | fixedLL286To287 sym hp => rw [execFixedLL286To287_next (sym := sym) h]; exact .inl rfl
  | dynLit sym n hp hr =>
    obtain ⟨-, rfl⟩ := literalElement_next h
    exact .inr (elementsLeft_lt_of_consumed (codeLenOk_pos hw) hr (by simp) (by simp))
  | dynEob n hp hr =>
    obtain ⟨-, rfl⟩ := eobElement_next h
    exact .inr (elementsLeft_endBlock_lt (codeLenOk_pos hw) hr)
  | dynLen sym n hp hlo hhi hr =>
    obtain ⟨-, rfl⟩ := lengthCodeElement_next h
    simp only [Instr.wellFormed, Bool.and_eq_true] at hw
    exact .inr (elementsLeft_lt_of_consumed (codeLenOk_pos hw.2) hr rfl rfl)
  | length _ k j x hp hf hr =>
    obtain ⟨k', hp', rfl⟩ := lengthElement_next ((execElement_of_lengthFields hf s).1 ▸ h)
    exact .inr (elementsLeft_lt_of_left (by rw [hp']; rfl) rfl (Nat.le_add_right _ _) rfl)
  | fixedDist d len hp hr =>
    obtain ⟨len', hp', rfl⟩ := distCodeElement_next h
    exact .inr (elementsLeft_lt_of_consumed (by decide) (State.Covers.of_fixedD hp hr hfix) rfl rfl)
  | dynDist d n len hp hr =>
    obtain ⟨len', hp', rfl⟩ := distCodeElement_next h
    simp only [Instr.wellFormed, Bool.and_eq_true] at hw
    exact .inr (elementsLeft_lt_of_consumed (codeLenOk_pos hw.2) hr rfl rfl)
  | dist _ k len d x hp hf hr =>
    rcases execElement_of_distFields hf s with he | he <;> rw [he] at h
    · obtain ⟨k', len', hp', ⟨-, -, rfl⟩ | ⟨-, rfl⟩⟩ := distElement_next h
      · refine .inr (elementsLeft_lt_of_left (by rw [hp']; rfl) rfl ?_ ?_)
        · show s.rpos ≤ (copyBytes _ _ _).rpos
          rw [copyBytes_rpos]
          exact Nat.le_add_right _ _
        · exact copyBytes_ilen _ _ _
      · exact .inl rfl
    · obtain ⟨-, rfl⟩ := distInvalidElement_next h
      exact .inl rfl
  | zlibAdler v hp hr =>
    rcases execZlibAdler_next h with rfl | rfl
    · exact .inl rfl
    · exact .inl rfl

end

/-! ### The command and its elements -/

theorem fixedLoaded_of_decodes {s : State} (hs : s.Decodes) : s.FixedLoaded := by
  have htbl := hs.tables
  unfold State.ModeTables at htbl
  intro hr
  revert htbl hr
  generalize s.phase = p
  cases p with
  | data k | lenExtra k _ | distCode k _ | distExtra k _ _ =>
    cases k <;> simp [readsFixed, tablesRead, TablesRead.ofKind]
  | _ => simp [readsFixed]

/-- Inside a decode command a step has a next state that ends the command or lowers the bound. -/
theorem elementStep_progress {s : State} (hs : s.Decodes) (hp : s.phase ≠ .idle) :
    ∃ t, elementStep s = .next t ∧ t.Decodes ∧
      (t.phase = .idle ∨ t.elementsLeft < s.elementsLeft) := by
  obtain ⟨t, ht⟩ := exists_elementStep hp
  refine ⟨t, ht, decodes_of_move hs (elementStep_move ht), ?_⟩
  rcases elementStep_cases s with ⟨i, n, hd, he⟩ | ⟨e, -, he⟩ | ⟨-, he⟩ <;> rw [he] at ht
  · exact execElement_progress (decodeElem_elementAt hd) (wellFormed_of_decodeElem hs hd)
      (fixedLoaded_of_decodes hs) ht
  · cases ht; exact .inl rfl
  · cases ht

/-- With more rounds than elements can follow, the loop ends with the command. -/
theorem runElements_ends {n : Nat} {s : State} (hs : s.Decodes) (hn : s.elementsLeft < n) :
    ∃ t, runElements n s = .next t := by
  induction n generalizing s with
  | zero => omega
  | succ n ih =>
    by_cases hp : s.phase = .idle
    · exact ⟨s, runElements_of_idle hp⟩
    · obtain ⟨t, ht, hdec, hnext⟩ := elementStep_progress hs hp
      rw [runElements_succ hp ht]
      rcases hnext with hidle | hlt
      · exact ⟨t, runElements_of_idle hidle⟩
      · exact ih hdec (by omega)

/-- The loop inside a decode command is the machine stepping through the elements. -/
theorem runSteps_of_runElements {n : Nat} {s t : State} (h : runElements n s = .next t) :
    runSteps n s = .next t := by
  induction n generalizing s with
  | zero =>
    unfold runElements at h
    split_ifs at h
    exact h
  | succ n ih =>
    by_cases hp : s.phase = .idle
    · rw [runElements_of_idle hp] at h
      rw [runSteps, if_pos hp]
      exact h
    · unfold runElements at h
      rw [if_neg hp] at h
      rw [runSteps, if_neg hp, step_of_decoding hp]
      cases he : elementStep s with
      | next u => rw [he] at h; exact ih h
      | fault r => rw [he] at h; cases h
      | refused r => rw [he] at h; cases h

/-- The bound on the elements of a command is enough (assumption log 13). -/
theorem runElements_elementFuel {s : State} (hs : s.Decodes) :
    ∃ t, runElements s.elementFuel s = .next t ∧ runSteps s.elementFuel s = .next t ∧
      t.phase = .idle := by
  have hfuel : s.elementsLeft < s.elementFuel := by
    have := Bool.toNat_le (mayConsumeNothing s.phase)
    unfold State.elementsLeft State.elementFuel
    omega
  obtain ⟨t, ht⟩ := runElements_ends hs hfuel
  exact ⟨t, ht, runSteps_of_runElements ht, runElements_next_idle ht⟩

theorem decodes_startBlock (s : State) : s.startBlock.Decodes := ⟨rfl, .of_none rfl⟩

theorem decodes_startStream (s : State) : s.startStream.Decodes := by
  refine ⟨phaseOk_startStream s, .of_none ?_⟩
  unfold State.startStream
  split_ifs <;> rfl

/-- Settles O47: the loop of the command ends within its bound (`runElements_elementFuel`), and each of
its rounds is a step of the machine (`step_of_decoding`). -/
theorem decodeCommandIsItsElements : Obligations.DecodeCommandIsItsElements := by
  intro s
  constructor
  · intro hw hal
    obtain ⟨t, ht, hsteps, hidle⟩ := runElements_elementFuel (decodes_startBlock s.begin)
    exact ⟨_, t, (if_pos ⟨hw, hal⟩).trans ht, hsteps, hidle⟩
  · intro hok
    obtain ⟨t, ht, hsteps, hidle⟩ := runElements_elementFuel (decodes_startStream s.begin)
    exact ⟨_, t, (if_pos hok).trans ht, hsteps, hidle⟩

end Sys2Proof.Machine

/-! ## Decoding what was encoded: codewords (R64, R104, R105, R193, R196)

In a well-formed table the codeword that the input begins with is the only one that matches, so `DecodeSym`
answers its symbol; the fixed code's codewords are the ones R105 writes out. -/

namespace Sys2Proof

/-! ### Bits at the cursor -/

/-- The stream's bits from offset `off` on begin with a list of bits. -/
def BitsAt (bit : Nat → Bool) (off : Nat) (bits : List Bool) : Prop :=
  ∀ k (h : k < bits.length), bit (off + k) = bits[k]

theorem BitsAt.append {bit : Nat → Bool} {off : Nat} {l m : List Bool} (h : BitsAt bit off (l ++ m)) :
    BitsAt bit off l ∧ BitsAt bit (off + l.length) m := by
  constructor
  · intro k hk
    rw [h k (by rw [List.length_append]; omega), List.getElem_append_left hk]
  · intro k hk
    rw [Nat.add_assoc, h (l.length + k) (by rw [List.length_append]; omega),
      List.getElem_append_right (by omega)]
    simp

/-- The field over known bits is their value (R63, R143). -/
theorem fieldAt_of_bitsAt {bit : Nat → Bool} {off : Nat} {bits : List Bool} (h : BitsAt bit off bits) :
    fieldAt bit off bits.length = ofBits bits := by
  rw [fieldAt]
  congr 1
  refine List.ext_getElem (by simp) fun k hk hk' => ?_
  simpa using h k hk'

/-- The value of a field followed by more bits (R63). -/
theorem ofBits_bitsOf_append (v n : Nat) (bits : List Bool) :
    ofBits (bitsOf v n ++ bits) = v % 2 ^ n + 2 ^ n * ofBits bits := by
  induction n generalizing v with
  | zero => simp [Nat.mod_one]
  | succ n ih =>
    rw [bitsOf_succ, List.cons_append, ofBits_cons, ih, Nat.pow_succ, Nat.mul_comm (2 ^ n) 2,
      Nat.mod_mul, Nat.mul_add, ← Nat.mul_assoc]
    rcases Nat.mod_two_eq_zero_or_one v with h | h <;> simp [Nat.testBit_zero, h, Nat.add_assoc]

theorem fieldAt_bitsOf {bit : Nat → Bool} {off v n : Nat} (h : BitsAt bit off (bitsOf v n)) :
    fieldAt bit off n = v % 2 ^ n := by
  rw [← ofBits_bitsOf, ← fieldAt_of_bitsAt h, length_bitsOf]

/-! ### The codeword that matches -/

/-- Neither of two rows' codewords is the start of the other, as they arrive (R171). -/
def DecRow.Apart (r q : DecRow) : Prop :=
  r.pattern % 2 ^ min r.len q.len ≠ q.pattern % 2 ^ min r.len q.len

theorem DecRow.apart_symm : Std.Symm DecRow.Apart :=
  ⟨fun r q h => by rw [DecRow.Apart, Nat.min_comm]; exact h.symm⟩

/-- A well-formed table answers the row whose codeword the index begins with: no other row's codeword
does (R171, R193). -/
theorem rowEntry_of_mem {a : Alphabet} {rows : List DecRow} {r : DecRow} {index : Nat}
    (hok : Machine.tableOk a (.built rows) = true) (hr : r ∈ rows)
    (hindex : index % 2 ^ r.len = r.pattern) : rowEntry rows index = (r.sym, r.len) := by
  simp only [Machine.tableOk, Bool.and_eq_true, decide_eq_true_eq] at hok
  have hsymm := DecRow.apart_symm
  have hfree : ∀ ⦃q⦄, q ∈ rows → ∀ ⦃p⦄, p ∈ rows → q ≠ p → q.Apart p :=
    fun _ hq _ hp => (hok.2.imp fun h => h.2 : rows.Pairwise DecRow.Apart).forall hq hp
  have hstart : ∀ q : DecRow, index % 2 ^ q.len = q.pattern → ∀ m ≤ q.len,
      q.pattern % 2 ^ m = index % 2 ^ m := fun q hq m hm => by
    rw [← hq, Nat.mod_mod_of_dvd _ (Nat.pow_dvd_pow 2 hm)]
  have honly : ∀ q ∈ rows, index % 2 ^ q.len = q.pattern → q = r := by
    intro q hq hmatch
    by_contra hne
    refine hfree hq hr hne ?_
    rw [hstart q hmatch _ (Nat.min_le_left _ _), hstart r hindex _ (Nat.min_le_right _ _)]
  unfold rowEntry
  cases hfind : rows.find? fun r => index % 2 ^ r.len == r.pattern with
  | none => exact absurd (List.find?_eq_none.1 hfind r hr) (by simpa using hindex)
  | some q =>
    have hmatch := List.find?_some hfind
    rw [honly q (List.mem_of_find?_eq_some hfind) (by simpa using hmatch)]

/-- A codeword of a well-formed table, standing at the cursor, is decoded to its symbol (R193, R196). -/
theorem decodeSym_of_mem {a : Alphabet} {rows : List DecRow} {r : DecRow} {bit : Nat → Bool}
    {rem : Nat} (hok : Machine.tableOk a (.built rows) = true) (hr : r ∈ rows)
    (hrem : r.len ≤ rem) (hbits : BitsAt bit 0 (bitsOf r.pattern r.len)) :
    decodeSym a (.built rows) bit rem = .ok (r.sym, r.len) := by
  have hlegal := hok
  simp only [Machine.tableOk, Bool.and_eq_true, List.all_eq_true, decide_eq_true_eq] at hlegal
  obtain ⟨⟨⟨hpos, hmax⟩, hpat⟩, -⟩ := hlegal.1 r hr
  have hindex : fieldAt (peekBit bit rem) 0 a.maxBits % 2 ^ r.len = r.pattern := by
    refine Nat.eq_of_testBit_eq fun i => ?_
    rw [Nat.testBit_mod_two_pow, testBit_fieldAt]
    by_cases hi : i < r.len
    · have hbit := hbits i (by simpa using hi)
      rw [getElem_bitsOf] at hbit
      have hi' : i < a.maxBits := by omega
      have hi'' : i < rem := by omega
      simpa [hi, hi', hi'', peekBit] using hbit
    · have hpow : 2 ^ r.len ≤ 2 ^ i := Nat.pow_le_pow_right (by decide) (by omega)
      rw [Nat.testBit_lt_two_pow (by omega)]
      simp [hi]
  have hentry : DecTable.entry a (.built rows) (fieldAt (peekBit bit rem) 0 a.maxBits) =
      (r.sym, r.len) := rowEntry_of_mem hok hr hindex
  have hne : r.len ≠ 0 := by omega
  simp only [decodeSym, hentry, if_neg hne, if_neg (Nat.not_lt.2 hrem)]

/-- The encoder's codeword of a symbol is decoded to the symbol (R193, R196). -/
theorem decodeSym_tableWord {a : Alphabet} {t : DecTable} {sym n : Nat} {bits : List Bool}
    {bit : Nat → Bool} {rem : Nat} (hok : Machine.tableOk a t = true)
    (hword : tableWord t sym n = some bits) (hrem : bits.length ≤ rem) (hbits : BitsAt bit 0 bits) :
    decodeSym a t bit rem = .ok (sym, n) ∧ bits.length = n := by
  cases t with
  | unspecified tag => cases hword
  | built rows =>
    simp only [tableWord, DecTable.pattern, Option.map_map, Option.map_eq_some_iff] at hword
    obtain ⟨r, hfind, rfl⟩ := hword
    have hrow := List.find?_some hfind
    simp only [Bool.and_eq_true, beq_iff_eq] at hrow
    obtain ⟨rfl, rfl⟩ := hrow
    simp only [Function.comp_apply, length_bitsOf] at hrem hbits ⊢
    exact ⟨decodeSym_of_mem hok (List.mem_of_find?_eq_some hfind) hrem hbits, trivial⟩

/-! ### The codewords of the fixed code -/

theorem firstCodeOf_append (l m : List Nat) (n : Nat) :
    firstCodeOf (l ++ m) n = firstCodeOf l n + firstCodeOf m n := by
  simp [firstCodeOf]

theorem firstCodeOf_replicate (k l n : Nat) :
    firstCodeOf (List.replicate k l) n = k * if 0 < l ∧ l < n then 2 ^ (n - l) else 0 := by
  simp [firstCodeOf]

/-- The first code of each length of the fixed literal/length code (R105). -/
theorem firstCodeOf_fixedLenLL :
    firstCodeOf fixedLenLL 7 = 0 ∧ firstCodeOf fixedLenLL 8 = 0x30 ∧
      firstCodeOf fixedLenLL 9 = 0x190 := by
  simp only [fixedLenLL, firstCodeOf_append, firstCodeOf_replicate]
  decide

/-- How many of the first symbols of the fixed literal/length code have a length. -/
theorem count_take_fixedLenLL (sym n : Nat) : (fixedLenLL.take sym).count n =
    (if 8 = n then min sym 144 else 0) + (if 9 = n then min (sym - 144) 112 else 0) +
      (if 7 = n then min (sym - 256) 24 else 0) + if 8 = n then min (sym - 280) 8 else 0 := by
  simp only [fixedLenLL, List.take_append, List.take_replicate, List.length_append,
    List.length_replicate, List.count_append, List.count_replicate, beq_iff_eq]

/-- The codes of the fixed literal/length code (R105). -/
theorem fixedCode_ll {sym n : Nat} (h : fixedLenLL[sym]? = some n) :
    (canonicalCodes 15 fixedLenLL).getD sym 0 =
      if sym ≤ 143 then 0x30 + sym else if sym ≤ 255 then 0x190 + (sym - 144)
      else if sym ≤ 279 then sym - 256 else 0xC0 + (sym - 280) := by
  obtain ⟨h7, h8, h9⟩ := firstCodeOf_fixedLenLL
  have hlen := fixedLenLL_length h
  have hlt : sym < 288 := Machine.length_fixedLenLL ▸ (List.getElem?_eq_some_iff.1 h).1
  rw [getD_canonicalCodes (maxBits := 15) Machine.fixedLenLL_le h
    (by rw [hlen]; split_ifs <;> decide), count_take_fixedLenLL]
  split_ifs at hlen ⊢ <;> subst hlen <;> simp [h7, h8, h9] <;> omega

theorem getElem?_fixedLenD {sym : Nat} (h : sym < 32) : fixedLenD[sym]? = some 5 :=
  List.getElem?_replicate_of_lt h

/-- The codes of the fixed distance code (R105). -/
theorem fixedCode_d {sym : Nat} (h : sym < 32) : (canonicalCodes 15 fixedLenD).getD sym 0 = sym := by
  rw [getD_canonicalCodes (maxBits := 15) Machine.fixedLenD_le (getElem?_fixedLenD h) (by decide)]
  simp only [fixedLenD, firstCodeOf_replicate, List.take_replicate, List.count_replicate]
  simp
  omega

/-- A codeword as the encoder writes it is the bits of the reversed code (R11, R64). -/
theorem bitsOf_revBits (n c : Nat) : bitsOf (revBits n c) n = codeword c n := by
  refine List.ext_getElem (by simp [codeword]) fun i hi hi' => ?_
  have hin : i < n := by simpa using hi
  rw [getElem_bitsOf, testBit_revBits]
  simp [codeword, bitsOf, hin]

/-- A codeword of a code's table, standing at the cursor, is decoded to its symbol. -/
theorem decodeSym_builtTable {a : Alphabet} {lens : List Nat} {sym n code : Nat} {bit : Nat → Bool}
    {rem : Nat} (ht : TableOfCode a (builtTable a lens)) (hlen : lens[sym]? = some n) (hn : n ≠ 0)
    (hcode : (canonicalCodes a.maxBits lens).getD sym 0 = code)
    (hrem : (codeword code n).length ≤ rem) (hbits : BitsAt bit 0 (codeword code n)) :
    decodeSym a (builtTable a lens) bit rem = .ok (sym, n) := by
  subst hcode
  rw [← bitsOf_revBits] at hrem hbits
  have hmem := (mem_decodeRows (first := 0) (Machine.length_canonicalCodes a.maxBits lens)).2
    ⟨sym, n, hlen, hn, rfl⟩
  rw [Nat.zero_add] at hmem
  exact decodeSym_of_mem (Machine.tableOk_of_tableOfCode ht) hmem (by simpa using hrem) hbits

/-- The literal/length codewords of the fixed code, written out (R105). -/
def fixedWord (sym : Nat) : List Bool :=
  if sym ≤ 143 then codeword (0x30 + sym) 8
  else if sym ≤ 255 then codeword (0x190 + (sym - 144)) 9
  else if sym ≤ 279 then codeword (sym - 256) 7
  else codeword (0xC0 + (sym - 280)) 8

theorem codeword_eq_fixedWord {sym n : Nat} (h : fixedLenLL[sym]? = some n) :
    codeword ((canonicalCodes 15 fixedLenLL).getD sym 0) n = fixedWord sym := by
  rw [fixedCode_ll h, fixedLenLL_length h, fixedWord]
  clear h
  split_ifs <;> rfl

/-- A literal/length codeword of the fixed code is decoded to its symbol (R105). -/
theorem decodeSym_fixedWord_ll {sym : Nat} {bit : Nat → Bool} {rem : Nat} (h : sym < 288)
    (hrem : (fixedWord sym).length ≤ rem) (hbits : BitsAt bit 0 (fixedWord sym)) :
    decodeSym .ll (fixedTable .ll) bit rem = .ok (sym, (fixedWord sym).length) := by
  obtain ⟨n, hlen⟩ : ∃ n, fixedLenLL[sym]? = some n :=
    ⟨_, List.getElem?_eq_getElem (Machine.length_fixedLenLL.symm ▸ h)⟩
  have hlength : (fixedWord sym).length = n := by
    rw [← codeword_eq_fixedWord hlen, codeword, List.length_reverse, length_bitsOf]
  rw [hlength]
  rw [← codeword_eq_fixedWord hlen] at hrem hbits
  exact decodeSym_builtTable Machine.tableOfCode_fixedTable_ll hlen
    (by rw [fixedLenLL_length hlen]; split_ifs <;> decide) rfl hrem hbits

/-- A distance codeword of the fixed code is decoded to its symbol (R105). -/
theorem decodeSym_fixedWord_d {sym : Nat} {bit : Nat → Bool} {rem : Nat} (h : sym < 32)
    (hrem : (codeword sym 5).length ≤ rem) (hbits : BitsAt bit 0 (codeword sym 5)) :
    decodeSym .d (fixedTable .d) bit rem = .ok (sym, 5) :=
  decodeSym_builtTable Machine.tableOfCode_fixedTable_d (getElem?_fixedLenD h) (by decide)
    (fixedCode_d h) hrem hbits

end Sys2Proof

/-! ## Decoding what was encoded: elements (R100 to R110) -/

namespace Sys2Proof

/-- The input, `rem` bits long, begins with a list of bits. -/
structure StartsWith (bit : Nat → Bool) (rem : Nat) (bits : List Bool) : Prop where
  fits : bits.length ≤ rem
  at_cursor : BitsAt bit 0 bits

/-! ### The tables of a context -/

/-- What `ctxOk` says of a context, by its parts. -/
theorem tablesOk_of_ctxOk {c : StreamCtx} (h : Machine.ctxOk c = true) :
    Machine.tableOk .ll c.ll = true ∧ Machine.tableOk .d c.d = true ∧
      Machine.tableOk .cl c.cl = true := by
  simp only [Machine.ctxOk, Bool.and_eq_true] at h
  obtain ⟨⟨⟨hll, hd⟩, hcl⟩, -⟩ := h
  exact ⟨hll, hd, hcl⟩

theorem fixedTable_of_ctxOk_data {c : StreamCtx} (h : Machine.ctxOk c = true)
    (hp : c.phase = .data .fixed) : c.ll = fixedTable .ll := by
  rw [Machine.ctxOk, hp] at h
  simp only [Bool.and_eq_true, beq_iff_eq] at h
  obtain ⟨-, hll, -⟩ := h
  exact hll

theorem fixedTable_of_ctxOk_distCode {c : StreamCtx} {len : Nat} (h : Machine.ctxOk c = true)
    (hp : c.phase = .distCode .fixed len) : c.d = fixedTable .d := by
  rw [Machine.ctxOk, hp] at h
  simp only [Bool.and_eq_true, beq_iff_eq] at h
  obtain ⟨-, -, hd⟩ := h
  exact hd

section
variable {c : StreamCtx} {i : Instr} {bits : List Bool} {bit : Nat → Bool} {rem : Nat}

/-! ### Fields -/

/-- `ReadBits` over known bits after bits passed over hands on their value (R143, R146). -/
theorem readElem_of_startsWith {skip n : Nat} {pad field : List Bool} (mk : Nat → Instr)
    (h : StartsWith bit rem (pad ++ field)) (hpad : pad.length = skip) (hfield : field.length = n) :
    readElem bit rem skip n mk = .ok (mk (ofBits field), skip + n) := by
  have hfits := h.fits
  have hvalue := fieldAt_of_bitsAt h.at_cursor.append.2
  rw [List.length_append, hpad, hfield] at hfits
  rw [Nat.zero_add, hpad, hfield] at hvalue
  rw [readElem, if_neg (Nat.not_lt.2 hfits), hvalue]

theorem readElem_of_startsWith_field {n : Nat} {field : List Bool} (mk : Nat → Instr)
    (h : StartsWith bit rem field) (hfield : field.length = n) :
    readElem bit rem 0 n mk = .ok (mk (ofBits field), n) := by
  have hread := readElem_of_startsWith (skip := 0) (pad := []) mk h rfl hfield
  rwa [Nat.zero_add] at hread

theorem ofNat_eq_of_mod {w v : Nat} {x : BitVec w} (h : v % 2 ^ w = x.toNat) :
    BitVec.ofNat w v = x := BitVec.eq_of_toNat_eq ((BitVec.toNat_ofNat v w).trans h)

theorem decode_zlibHdr (hp : c.phase = .zlibHdr) {cmf flg : BitVec 8}
    (h : StartsWith bit rem (bitsOf cmf.toNat 8 ++ bitsOf flg.toNat 8)) :
    decodeElem c bit rem = .ok (.zlibHdr cmf flg, 16) := by
  have hcmf := cmf.isLt
  have hflg := flg.isLt
  simp only [decodeElem, hp]
  rw [readElem_of_startsWith_field _ h (by simp), ofBits_bitsOf_append, ofBits_bitsOf,
    ofNat_eq_of_mod (x := cmf) (by omega), ofNat_eq_of_mod (x := flg) (by omega)]

theorem decode_storedLen (hp : c.phase = .storedLen) {len nlen : BitVec 16}
    (h : StartsWith bit rem
      (List.replicate (alignPad c.off) false ++ (bitsOf len.toNat 16 ++ bitsOf nlen.toNat 16))) :
    decodeElem c bit rem = .ok (.storedLen len nlen, alignPad c.off + 32) := by
  have hlen := len.isLt
  have hnlen := nlen.isLt
  simp only [decodeElem, hp]
  rw [readElem_of_startsWith _ h (by simp) (by simp), ofBits_bitsOf_append, ofBits_bitsOf,
    ofNat_eq_of_mod (x := len) (by omega), ofNat_eq_of_mod (x := nlen) (by omega)]

theorem decode_dynHdr (hp : c.phase = .dynHdr) {hlit hdist : BitVec 5} {hclen : BitVec 4}
    (h : StartsWith bit rem
      (bitsOf hlit.toNat 5 ++ (bitsOf hdist.toNat 5 ++ bitsOf hclen.toNat 4))) :
    decodeElem c bit rem = .ok (.dynHdr hlit hdist hclen, 14) := by
  have hl := hlit.isLt
  have hd := hdist.isLt
  have hc := hclen.isLt
  simp only [decodeElem, hp]
  rw [readElem_of_startsWith_field _ h (by simp), ofBits_bitsOf_append,
    ofBits_bitsOf_append, ofBits_bitsOf, ofNat_eq_of_mod (x := hlit) (by omega),
    ofNat_eq_of_mod (x := hdist) (by omega), ofNat_eq_of_mod (x := hclen) (by omega)]

theorem decode_dynClLen {nl nd nc j : Nat} (hp : c.phase = .dynClLen nl nd nc j) {v : BitVec 3}
    (h : StartsWith bit rem (bitsOf v.toNat 3)) :
    decodeElem c bit rem = .ok (.dynClLen v, 3) := by
  simp only [decodeElem, hp]
  rw [readElem_of_startsWith_field _ h (by simp), ofBits_bitsOf,
    ofNat_eq_of_mod (x := v) (Nat.mod_mod _ _ |>.trans (Nat.mod_eq_of_lt v.isLt))]

/-- A 32-bit word from its bytes, most significant first (R333). -/
theorem append_bytes_eq {t : BitVec 32} {b3 b2 b1 b0 : BitVec 8}
    (h : t.toNat = ((b3.toNat * 256 + b2.toNat) * 256 + b1.toNat) * 256 + b0.toNat) :
    b3 ++ b2 ++ b1 ++ b0 = t := by
  refine BitVec.eq_of_toNat_eq ?_
  simp only [BitVec.toNat_append, h]
  rw [← Nat.shiftLeft_add_eq_or_of_lt b2.isLt, ← Nat.shiftLeft_add_eq_or_of_lt b1.isLt,
    ← Nat.shiftLeft_add_eq_or_of_lt b0.isLt]
  simp only [Nat.shiftLeft_eq]

theorem decode_zlibAdler (hp : c.phase = .zlibAdler) {t : BitVec 32}
    (h : StartsWith bit rem (bitsOf (t.toNat / 16777216) 8 ++ (bitsOf (t.toNat / 65536) 8 ++
      (bitsOf (t.toNat / 256) 8 ++ bitsOf t.toNat 8)))) :
    decodeElem c bit rem = .ok (.zlibAdler t, 32) := by
  have hbytes : t.toNat = ((t.toNat / 16777216 % 2 ^ 8 * 256 + t.toNat / 65536 % 2 ^ 8) * 256 +
      t.toNat / 256 % 2 ^ 8) * 256 + t.toNat % 2 ^ 8 % 2 ^ 8 := by
    have := t.isLt
    omega
  have split : ∀ {v b3 b2 b1 b0 : Nat}, b3 < 2 ^ 8 → b2 < 2 ^ 8 → b1 < 2 ^ 8 →
      v = b3 + 2 ^ 8 * (b2 + 2 ^ 8 * (b1 + 2 ^ 8 * b0)) →
      v % 2 ^ 8 = b3 ∧ v / 256 % 2 ^ 8 = b2 ∧ v / 65536 % 2 ^ 8 = b1 ∧
        v / 16777216 % 2 ^ 8 = b0 % 2 ^ 8 := by omega
  obtain ⟨h3, h2, h1, h0⟩ := split (Nat.mod_lt (t.toNat / 16777216) (by decide))
    (Nat.mod_lt (t.toNat / 65536) (by decide)) (Nat.mod_lt (t.toNat / 256) (by decide)) rfl
  simp only [decodeElem, hp]
  rw [readElem_of_startsWith_field _ h (by simp), ofBits_bitsOf_append, ofBits_bitsOf_append,
    ofBits_bitsOf_append, ofBits_bitsOf, append_bytes_eq (t := t)]
  simp only [BitVec.toNat_ofNat]
  rw [h3, h2, h1, h0]
  exact hbytes

theorem decode_header (hp : c.phase = .blockHdr) {f b0 b1 : Bool}
    (h : StartsWith bit rem [f, b0, b1]) : decodeElem c bit rem =
      .ok (if b1 then (if b0 then .blockReserved f else .blockDynamic f)
        else if b0 then .blockFixed f else .blockStored f, 3) := by
  simp only [decodeElem, hp]
  rw [readElem_of_startsWith_field (n := 3) _ h rfl]
  cases f <;> cases b0 <;> cases b1 <;> rfl

/-- The bytes of a stored block (R274). -/
theorem fieldAt_flatMap_bytes {payload : List (BitVec 8)} {off : Nat}
    (h : BitsAt bit off (payload.flatMap fun b => bitsOf b.toNat 8)) {k : Nat}
    (hk : k < payload.length) : fieldAt bit (off + 8 * k) 8 = payload[k].toNat := by
  induction payload generalizing off k with
  | nil => simp at hk
  | cons b bs ih =>
    rw [List.flatMap_cons] at h
    cases k with
    | zero => simpa [Nat.mod_eq_of_lt b.isLt] using fieldAt_bitsOf h.append.1
    | succ k =>
      have hrest := ih (by simpa using h.append.2) (Nat.lt_of_succ_lt_succ hk)
      simpa [Nat.mul_succ, Nat.add_assoc, Nat.add_comm 8] using hrest

theorem decode_storedData {payload : List (BitVec 8)} (hp : c.phase = .storedData payload.length)
    (h : StartsWith bit rem (payload.flatMap fun b => bitsOf b.toNat 8)) :
    decodeElem c bit rem = .ok (.storedData payload, 8 * payload.length) := by
  have hfits := h.fits
  have hbytes : ((List.range payload.length).map fun k => BitVec.ofNat 8 (fieldAt bit (8 * k) 8)) =
      payload := by
    refine List.ext_getElem (by simp) fun k hk hk' => ?_
    have hfield := fieldAt_flatMap_bytes h.at_cursor hk'
    rw [Nat.zero_add] at hfield
    simp [hfield]
  have hlen : (payload.flatMap fun b => bitsOf b.toNat 8).length = 8 * payload.length := by
    simp [List.length_flatMap, Nat.mul_comm]
  rw [hlen] at hfits
  simp only [decodeElem, hp, if_neg (Nat.not_lt.2 hfits), hbytes]

/-! ### Symbols with their extra bits (R106, R107, R109) -/

theorem lengthElem_of_fields {k x : Nat} (h : i.lengthFields = some (k, x)) :
    lengthElem k x = some i ∧ x < 2 ^ lengthExtra k := by
  cases i <;> cases h <;> exact ⟨by simp [lengthElem], by first | exact Nat.two_pow_pos _ | exact BitVec.isLt _⟩

theorem distElem_of_fields {d x : Nat} (h : i.distFields = some (d, x)) :
    distElem d x = some i := by
  cases i <;> cases h <;> simp [distElem]

theorem clElem_of_fields {k n x : Nat} (h : i.clFields = some (k, n, x)) :
    clElem k n x = some i ∧ x < 2 ^ clExtra k := by
  cases i <;> cases h <;> exact ⟨by simp [clElem], by first | exact Nat.two_pow_pos _ | exact BitVec.isLt _⟩

theorem encodeElem_of_lengthFields {k x : Nat} (h : i.lengthFields = some (k, x)) :
    encodeElem c i = some (bitsOf x (lengthExtra k)) := by
  cases i <;> cases h <;> rfl

theorem encodeElem_of_distFields {d x : Nat} (h : i.distFields = some (d, x)) :
    encodeElem c i = some (bitsOf x (distExtra d)) := by
  cases i <;> cases h <;> rfl

theorem encodeElem_of_clFields {k n x : Nat} (h : i.clFields = some (k, n, x)) :
    encodeElem c i = (tableWord c.cl k n).map (· ++ bitsOf x (clExtra k)) := by
  cases i <;> cases h <;> rfl

theorem decode_length {k : BlockKind} {j x : Nat} (hp : c.phase = .lenExtra k (257 + j))
    (hf : i.lengthFields = some (j, x)) (h : StartsWith bit rem (bitsOf x (lengthExtra j))) :
    decodeElem c bit rem = .ok (i, lengthExtra j) := by
  obtain ⟨helem, hx⟩ := lengthElem_of_fields hf
  have hfits := h.fits
  rw [length_bitsOf] at hfits
  simp only [decodeElem, hp, Nat.add_sub_cancel_left, if_neg (Nat.not_lt.2 hfits),
    if_pos (Nat.le_add_right 257 j), fieldAt_bitsOf h.at_cursor, Nat.mod_eq_of_lt hx, helem, elemOr]

theorem decode_dist {k : BlockKind} {len d x : Nat} (hp : c.phase = .distExtra k len d)
    (hf : i.distFields = some (d, x)) (h : StartsWith bit rem (bitsOf x (distExtra d))) :
    decodeElem c bit rem = .ok (i, distExtra d) := by
  have hx := Machine.extra_lt_of_distFields hf
  have hfits := h.fits
  rw [length_bitsOf] at hfits
  simp only [decodeElem, hp, if_neg (Nat.not_lt.2 hfits), fieldAt_bitsOf h.at_cursor,
    Nat.mod_eq_of_lt hx, distElem_of_fields hf, elemOr]

theorem StartsWith.append {l m : List Bool} (h : StartsWith bit rem (l ++ m)) :
    StartsWith bit rem l := by
  have hfits := h.fits
  rw [List.length_append] at hfits
  exact ⟨by omega, h.at_cursor.append.1⟩

theorem decode_codeLength {nl nd k n x : Nat} {seq : List Nat} {word : List Bool}
    (hp : c.phase = .dynLens nl nd seq) (hok : Machine.tableOk .cl c.cl = true)
    (hf : i.clFields = some (k, n, x)) (hrep : ¬(k = 16 ∧ seq = []))
    (hword : tableWord c.cl k n = some word)
    (h : StartsWith bit rem (word ++ bitsOf x (clExtra k))) :
    decodeElem c bit rem = .ok (i, (word ++ bitsOf x (clExtra k)).length) := by
  obtain ⟨helem, hx⟩ := clElem_of_fields hf
  obtain ⟨hsym, hlen⟩ := decodeSym_tableWord hok hword h.append.fits h.append.at_cursor
  have hfits := h.fits
  have hextra := h.at_cursor.append.2
  rw [List.length_append, length_bitsOf, hlen] at hfits
  rw [Nat.zero_add, hlen] at hextra
  rw [List.length_append, length_bitsOf, hlen]
  simp only [decodeElem, hp, decodeClElem, hsym, if_neg hrep, if_neg (Nat.not_lt.2 hfits),
    fieldAt_bitsOf hextra, Nat.mod_eq_of_lt hx, helem, elemOr]

/-! ### Codewords (R103, R105) -/

theorem decode_fixedDist {len : Nat} {d : BitVec 5} (hp : c.phase = .distCode .fixed len)
    (hctx : Machine.ctxOk c = true) (h : StartsWith bit rem (codeword d.toNat 5)) :
    decodeElem c bit rem = .ok (.fixedDist d, 5) := by
  have hd := d.isLt
  simp only [decodeElem, hp, fixedTable_of_ctxOk_distCode hctx hp,
    decodeSym_fixedWord_d hd h.fits h.at_cursor, if_pos (Nat.le_of_lt_succ hd), elemOr, BitVec.ofNat_toNat, BitVec.setWidth_eq]

theorem decode_dynamic {sym n : Nat} (hp : c.phase = .data .dynamic)
    (hok : Machine.tableOk .ll c.ll = true) (helem : dynElem sym n = some i)
    (hword : tableWord c.ll sym n = some bits) (h : StartsWith bit rem bits) :
    decodeElem c bit rem = .ok (i, bits.length) := by
  obtain ⟨hsym, hlen⟩ := decodeSym_tableWord hok hword h.fits h.at_cursor
  simp only [decodeElem, hp, hsym, helem, elemOr, hlen]

theorem decode_dynDist {len : Nat} {d : BitVec 5} {n : BitVec 4}
    (hp : c.phase = .distCode .dynamic len) (hok : Machine.tableOk .d c.d = true)
    (hd : d.toNat ≤ 29) (hword : tableWord c.d d.toNat n.toNat = some bits)
    (h : StartsWith bit rem bits) :
    decodeElem c bit rem = .ok (.dynDist d n, bits.length) := by
  obtain ⟨hsym, hlen⟩ := decodeSym_tableWord hok hword h.fits h.at_cursor
  simp only [decodeElem, hp, hsym, if_pos hd, elemOr, hlen, BitVec.ofNat_toNat, BitVec.setWidth_eq]

/-- The element of the fixed code that a well-formed one of its mode is. -/
theorem exists_fixedElem (hadm : Phase.admits (.data .fixed) i = true) (hwf : i.wellFormed = true) :
    ∃ sym, fixedElem sym = some i := by
  unfold Phase.admits at hadm
  simp only at hadm
  split at hadm <;> simp only [Instr.wellFormed, Bool.and_eq_true, Bool.or_eq_true,
    decide_eq_true_eq, beq_iff_eq] at hwf
  · next sym => exact ⟨sym.toNat, by simp [fixedElem, hwf]⟩
  · next sym =>
    have := sym.isLt
    exact ⟨sym.toNat, by rw [fixedElem, if_neg (by omega), if_pos (by omega)]; simp⟩
  · exact ⟨256, rfl⟩
  · next sym =>
    refine ⟨sym.toNat, ?_⟩
    rw [fixedElem, if_neg (by omega), if_neg (by omega), if_neg (by omega), if_pos (by omega)]
    simp
  · next sym =>
    refine ⟨sym.toNat, ?_⟩
    rw [fixedElem, if_neg (by omega), if_neg (by omega), if_neg (by omega), if_neg (by omega),
      if_pos (by omega)]
    simp
  · next sym =>
    refine ⟨sym.toNat, ?_⟩
    rw [fixedElem, if_neg (by omega), if_neg (by omega), if_neg (by omega), if_neg (by omega),
      if_neg (by omega), if_pos (by omega)]
    simp
  · cases hadm

/-- The codeword of an element of the fixed code is its symbol's (R105). -/
theorem encodeElem_of_fixedElem {sym : Nat} (h : fixedElem sym = some i) :
    sym < 288 ∧ encodeElem c i = some (fixedWord sym) := by
  have e8 : sym < 256 → (BitVec.ofNat 8 sym).toNat = sym := fun h => Nat.mod_eq_of_lt h
  have e9 : sym < 512 → (BitVec.ofNat 9 sym).toNat = sym := fun h => Nat.mod_eq_of_lt h
  unfold fixedElem at h
  split_ifs at h with h1 h2 h3 h4 h5 h6 <;> cases h <;> refine ⟨by omega, ?_⟩
  · change some (codeword (0x30 + (BitVec.ofNat 8 sym).toNat) 8) = _
    rw [e8 (by omega), fixedWord, if_pos h1]
  · change some (codeword (0x190 + ((BitVec.ofNat 8 sym).toNat - 144)) 9) = _
    rw [e8 (by omega), fixedWord, if_neg h1, if_pos h2]
  · subst h3; rfl
  · change some (codeword ((BitVec.ofNat 9 sym).toNat - 256) 7) = _
    rw [e9 (by omega), fixedWord, if_neg h1, if_neg h2, if_pos h4]
  · change some (codeword (0xC0 + ((BitVec.ofNat 9 sym).toNat - 280)) 8) = _
    rw [e9 (by omega), fixedWord, if_neg h1, if_neg h2, if_neg h4]
  · change some (codeword (0xC0 + ((BitVec.ofNat 9 sym).toNat - 280)) 8) = _
    rw [e9 (by omega), fixedWord, if_neg h1, if_neg h2, if_neg h4]

theorem decode_fixed (hp : c.phase = .data .fixed) (hctx : Machine.ctxOk c = true)
    (hadm : Phase.admits (.data .fixed) i = true) (hwf : i.wellFormed = true)
    (henc : encodeElem c i = some bits) (h : StartsWith bit rem bits) :
    decodeElem c bit rem = .ok (i, bits.length) := by
  obtain ⟨sym, helem⟩ := exists_fixedElem hadm hwf
  obtain ⟨hsym, hword⟩ := encodeElem_of_fixedElem (c := c) helem
  obtain rfl := Option.some.inj (henc.symm.trans hword)
  simp only [decodeElem, hp, fixedTable_of_ctxOk_data hctx hp,
    decodeSym_fixedWord_ll hsym h.fits h.at_cursor, helem, elemOr]

/-! ### Every element -/

/-- A literal/length element of a transmitted code is its symbol's (R103). -/
theorem exists_dynElem (hadm : Phase.admits (.data .dynamic) i = true) (hwf : i.wellFormed = true) :
    ∃ sym n, dynElem sym n = some i ∧ encodeElem c i = tableWord c.ll sym n := by
  unfold Phase.admits at hadm
  simp only at hadm
  split at hadm <;> simp only [Instr.wellFormed, Bool.and_eq_true, decide_eq_true_eq] at hwf
  · next sym n =>
    have := sym.isLt
    exact ⟨sym.toNat, n.toNat, by rw [dynElem, if_pos (by omega)]; simp, rfl⟩
  · next n => exact ⟨256, n.toNat, by simp [dynElem], rfl⟩
  · next sym n =>
    refine ⟨sym.toNat, n.toNat, ?_, rfl⟩
    rw [dynElem, if_neg (by omega), if_neg (by omega), if_pos (by omega)]
    simp
  · cases hadm

/-- The only element of symbol 16 is `CL_16` (R109). -/
theorem eq_cl16_of_clFields {n x : Nat} (h : i.clFields = some (16, n, x)) :
    ∃ m y, i = .cl16 m y := by
  cases i <;> cases h
  exact ⟨_, _, rfl⟩

/-- The headers' three bits (R101). -/
theorem decode_header_of_encode (hp : c.phase = .blockHdr)
    (hadm : Phase.admits .blockHdr i = true) (henc : encodeElem c i = some bits)
    (h : StartsWith bit rem bits) : decodeElem c bit rem = .ok (i, bits.length) := by
  unfold Phase.admits at hadm
  simp only at hadm
  split at hadm
  · cases henc; exact decode_header hp h
  · cases henc; exact decode_header hp h
  · cases henc; exact decode_header hp h
  · cases henc; exact decode_header hp h
  · cases hadm

/-- Settles O12: the decode mode names the elements it admits; their bits are fields read back, symbols
with extra bits, or codewords, each the only one of its table that matches. -/
theorem elementDecodeEncode : Obligations.ElementDecodeEncode := by
  intro c i bits bit rem hctx hadm hwf hrep henc hfits hbits
  have h : StartsWith bit rem bits := ⟨hfits, fun k hk => by rw [Nat.zero_add]; exact hbits k hk⟩
  obtain ⟨hll, hd, hcl⟩ := tablesOk_of_ctxOk hctx
  cases hp : c.phase with
  | idle => rw [hp] at hadm; cases hadm
  | zlibHdr =>
    rw [hp] at hadm
    unfold Phase.admits at hadm
    simp only at hadm
    split at hadm
    · cases henc; simpa using decode_zlibHdr hp h
    · cases hadm
  | blockHdr => exact decode_header_of_encode hp (hp ▸ hadm) henc h
  | storedLen =>
    rw [hp] at hadm
    unfold Phase.admits at hadm
    simp only at hadm
    split at hadm
    · cases henc
      rw [List.append_assoc] at h
      simpa [Nat.add_assoc] using decode_storedLen hp h
    · cases hadm
  | storedData len =>
    rw [hp] at hadm
    unfold Phase.admits at hadm
    simp only at hadm
    split at hadm
    · cases henc
      obtain rfl := beq_iff_eq.1 hadm
      simpa [List.length_flatMap, Nat.mul_comm] using decode_storedData hp h
    · cases hadm
  | dynHdr =>
    rw [hp] at hadm
    unfold Phase.admits at hadm
    simp only at hadm
    split at hadm
    · cases henc
      rw [List.append_assoc] at h
      simpa using decode_dynHdr hp h
    · cases hadm
  | dynClLen nl nd nc j =>
    rw [hp] at hadm
    unfold Phase.admits at hadm
    simp only at hadm
    split at hadm
    · cases henc; simpa using decode_dynClLen hp h
    · cases hadm
  | dynLens nl nd seq =>
    rw [hp, Phase.admits, Option.isSome_iff_exists] at hadm
    obtain ⟨⟨k, n, x⟩, hf⟩ := hadm
    rw [encodeElem_of_clFields hf, Option.map_eq_some_iff] at henc
    obtain ⟨word, hword, rfl⟩ := henc
    refine decode_codeLength hp hcl hf ?_ hword h
    rintro ⟨rfl, rfl⟩
    obtain ⟨m, y, hi⟩ := eq_cl16_of_clFields hf
    exact hrep m y nl nd hi hp
  | data k =>
    cases k with
    | fixed => exact decode_fixed hp hctx (hp ▸ hadm) hwf henc h
    | dynamic =>
      obtain ⟨sym, n, helem, hword⟩ := exists_dynElem (c := c) (hp ▸ hadm) hwf
      exact decode_dynamic hp hll helem (hword ▸ henc) h
  | lenExtra k sym =>
    rw [hp] at hadm
    unfold Phase.admits at hadm
    simp only at hadm
    split at hadm
    · next j x hf =>
      obtain rfl := beq_iff_eq.1 hadm
      rw [encodeElem_of_lengthFields hf] at henc
      cases henc
      simpa using decode_length hp hf h
    · cases hadm
  | distCode k len =>
    cases k with
    | fixed =>
      rw [hp] at hadm
      unfold Phase.admits at hadm
      simp only at hadm
      split at hadm
      · cases henc; simpa [codeword] using decode_fixedDist hp hctx h
      · cases hadm
    | dynamic =>
      rw [hp] at hadm
      unfold Phase.admits at hadm
      simp only at hadm
      split at hadm
      · simp only [Instr.wellFormed, Bool.and_eq_true, decide_eq_true_eq] at hwf
        exact decode_dynDist hp hd hwf.1 henc h
      · cases hadm
  | distExtra k len d =>
    rw [hp] at hadm
    unfold Phase.admits at hadm
    simp only at hadm
    split at hadm
    · next j x hf =>
      obtain rfl := beq_iff_eq.1 hadm
      rw [encodeElem_of_distFields hf] at henc
      cases henc
      simpa using decode_dist hp hf h
    · cases hadm
  | zlibAdler =>
    rw [hp] at hadm
    unfold Phase.admits at hadm
    simp only at hadm
    split at hadm
    · cases henc
      simp only [List.append_assoc] at h
      simpa using decode_zlibAdler hp h
    · cases hadm

end

end Sys2Proof

/-! ## Commands, the step and the checks (R90 to R95, R100, R211, R301, R311) -/

namespace Sys2Proof

/-! ### Opcodes and host transactions (R91, R93, R95) -/

theorem decodeOpcode_of_not_mem {op : BitVec 8} (h : op ∉ listedOpcodes) :
    decodeOpcode op = .reservedCmd op := by
  simp only [listedOpcodes, List.mem_cons, List.not_mem_nil, or_false, not_or] at h
  simp only [decodeOpcode, h, if_false]

theorem decodeOpcode_eq_reservedCmd_iff (op : BitVec 8) :
    decodeOpcode op = .reservedCmd op ↔ op ∉ listedOpcodes := by
  have hlisted : ∀ op ∈ listedOpcodes, decodeOpcode op ≠ .reservedCmd op := by decide
  exact ⟨fun h hmem => hlisted op hmem h, decodeOpcode_of_not_mem⟩

/-- The opcodes R93 lists are those R91 does not. -/
theorem not_mem_listedOpcodes_iff (op : BitVec 8) : op ∉ listedOpcodes ↔
    (op.toNat = 0 ∨ (0x03 ≤ op.toNat ∧ op.toNat ≤ 0x0F) ∨ (0x15 ≤ op.toNat ∧ op.toNat ≤ 0x1F) ∨
      (0x23 ≤ op.toNat ∧ op.toNat ≤ 0x27) ∨ (0x2A ≤ op.toNat ∧ op.toNat ≤ 0x2F) ∨
      (0x32 ≤ op.toNat ∧ op.toNat ≤ 0x3F) ∨ (0x41 ≤ op.toNat ∧ op.toNat ≤ 0x47) ∨
      (0x49 ≤ op.toNat ∧ op.toNat ≤ 0x4F) ∨ 0x51 ≤ op.toNat) := by
  simp only [listedOpcodes, List.mem_cons, List.not_mem_nil, or_false, ← BitVec.toNat_inj,
    BitVec.reduceToNat]
  omega

theorem decodeOpcode_of_opcode {i : Instr} {op : BitVec 8} (hwf : i.wellFormed = true)
    (h : i.opcode = some op) : decodeOpcode op = i := by
  cases i with
  | reservedCmd op' =>
    cases h
    exact decodeOpcode_of_not_mem (by simpa [Instr.wellFormed] using hwf)
  | _ => cases h <;> rfl

theorem decodeHost_cmd (v : Nat) (rest : List HostTxn) :
    decodeHost (.write 0 0 v :: rest) = some (decodeOpcode (BitVec.ofNat 8 v), rest) := rfl

/-- A command is spelled by a write of its opcode, a pseudo-command by two writes (R94, R95). -/
theorem encodeHost_cases {i : Instr} {txns : List HostTxn} (h : encodeHost i = some txns) :
    (∃ op, i.opcode = some op ∧ txns = [.write 0 0 op.toNat]) ∨
      ((i = .zcompress ∨ i = .zdecompress ∨ i = .rawcompress ∨ i = .rawdecompress) ∧
        ∀ rest, decodeHost (txns ++ rest) = some (i, rest)) := by
  unfold encodeHost at h
  split at h
  · cases h; exact .inr ⟨by simp, fun _ => rfl⟩
  · cases h; exact .inr ⟨by simp, fun _ => rfl⟩
  · cases h; exact .inr ⟨by simp, fun _ => rfl⟩
  · cases h; exact .inr ⟨by simp, fun _ => rfl⟩
  · obtain ⟨op, hop, rfl⟩ := Option.map_eq_some_iff.1 h
    exact .inl ⟨op, hop, rfl⟩

/-- Settles O13. -/
theorem commandDecodeEncode : Obligations.CommandDecodeEncode := by
  refine ⟨fun i txns rest hwf henc => ?_, fun op => ?_, fun v rest => ?_⟩
  · rcases encodeHost_cases henc with ⟨op, hop, rfl⟩ | ⟨-, hdec⟩
    · rw [List.singleton_append, decodeHost_cmd, BitVec.ofNat_toNat, BitVec.setWidth_eq,
        decodeOpcode_of_opcode hwf hop]
    · exact hdec rest
  · rw [decodeOpcode_eq_reservedCmd_iff, not_mem_listedOpcodes_iff]
  · have hlow : BitVec.ofNat 8 (v % 256) = BitVec.ofNat 8 v :=
      BitVec.eq_of_toNat_eq (by simp)
    rw [decodeHost_cmd, decodeHost_cmd, hlow]

/-! ### Words of the spec -/

/-- Well-formed bits written out, and nothing after them, decode to their element. -/
theorem decodeElem_word {c : StreamCtx} (i : Instr) {word : List Bool}
    (hctx : Machine.ctxOk c = true) (hadm : c.phase.admits i = true) (hwf : i.wellFormed = true)
    (hrep : ∀ n x nl nd, i = .cl16 n x → c.phase ≠ .dynLens nl nd [])
    (henc : encodeElem c i = some word) :
    decodeElem c (fun k => word.getD k false) word.length = .ok (i, word.length) :=
  elementDecodeEncode c i word _ _ hctx hadm hwf hrep henc (Nat.le_refl _) fun k hk => by
    simp [List.getD_eq_getElem?_getD, hk]

/-- The context of a fixed block (R275). -/
theorem ctxOk_fixedTables {p : Phase} {off : Nat} (h : Machine.readsFixed p = true) :
    Machine.ctxOk ⟨p, off, fixedTable .ll, fixedTable .d, .built []⟩ = true := by
  have hll := Machine.tableOk_of_tableOfCode Machine.tableOfCode_fixedTable_ll
  have hd := Machine.tableOk_of_tableOfCode Machine.tableOfCode_fixedTable_d
  have hcl : Machine.tableOk .cl (.built []) = true := rfl
  simp only [Machine.ctxOk, hll, hd, hcl, Bool.and_self, Bool.true_and]
  cases p with
  | data k | lenExtra k _ | distCode k _ | distExtra k _ _ =>
    cases k with
    | fixed => simp
    | dynamic => cases h
  | _ => rfl

/-- The codeword of length symbol 260 in the fixed code (R105). -/
theorem encodeElem_fixedLen260 (c : StreamCtx) : encodeElem c (.fixedLen257To279 260) =
    some [false, false, false, false, true, false, false] := by
  change some (codeword 4 7) = _
  rfl

/-- Settles O14: each word is the encoding of its element. -/
theorem decodedWords : Obligations.DecodedWords := by
  refine ⟨rfl, rfl, rfl, ?_, ?_, ?_, ?_, ?_, ?_, ?_, ?_, ?_⟩
  · exact decodeElem_word (.blockFixed true) rfl rfl rfl nofun rfl
  · exact decodeElem_word (.blockDynamic false) rfl rfl rfl nofun rfl
  · exact decodeElem_word (.blockReserved true) rfl rfl rfl nofun rfl
  · exact decodeElem_word (.fixedLit0To143 0x61) (ctxOk_fixedTables rfl) rfl rfl nofun rfl
  · exact decodeElem_word (.fixedLen257To279 260) (ctxOk_fixedTables rfl) rfl rfl nofun
      (encodeElem_fixedLen260 _)
  · exact decodeElem_word (.fixedDist 2) (ctxOk_fixedTables rfl) rfl rfl nofun rfl
  · exact decodeElem_word .fixedEob (ctxOk_fixedTables rfl) rfl rfl nofun rfl
  · exact decodeElem_word (.len269 1) (ctxOk_fixedTables rfl) rfl rfl nofun rfl
  · exact decodeElem_word (.dist8 4) (ctxOk_fixedTables rfl) rfl rfl nofun rfl

namespace Machine

/-! ### What a step runs (R92, R95, R100) -/

theorem step_of_element {s : State} {i : Instr} {n : Nat} (hp : s.phase ≠ .idle)
    (h : decodeElem s.ctx s.streamBit s.remaining = .ok (i, n)) : step s = exec i s := by
  rw [step, if_neg hp, State.fetchElement, h]

theorem step_of_rejected {s : State} {e : HwError} (hp : s.phase ≠ .idle)
    (h : decodeElem s.ctx s.streamBit s.remaining = .error (.raises e)) :
    step s = .next (s.raiseDecode e) := by
  rw [step, if_neg hp, State.fetchElement, h]

/-- Settles O7. -/
theorem stepRunsElement : Obligations.StepRunsElement :=
  fun _ hp => ⟨fun _ _ => step_of_element hp, fun _ => step_of_rejected hp⟩

theorem step_of_command {s : State} {i : Instr} {rest : List HostTxn} (hp : s.phase = .idle)
    (hb : s.status ≠ .busy) (hd : decodeHost s.host = some (i, rest)) :
    step s = exec i { s with host := rest } := by
  have hn : s.host ≠ [] := by
    intro hnil
    rw [hnil] at hd
    cases hd
  rw [step, if_pos hp, if_neg hn, if_neg hb, hd]

/-- Settles O8. -/
theorem stepRunsCommand : Obligations.StepRunsCommand :=
  fun _ hp => ⟨fun _ _ => step_of_command hp, fun _ _ => step_of_access hp, step_of_idle_empty hp⟩

theorem hostAccess_cfgFraming (f : Nat) (s : State) :
    hostAccess (.write 0 6 f) s = .next (s.setFraming (BitVec.ofNat 32 f)) := rfl

/-- The two writes of a pseudo-command (R95) run what its own decoding runs. -/
theorem step_fused {s : State} {f op : Nat} {rest : List HostTxn} {pseudo : Instr}
    (hp : s.phase = .idle) (hb : s.status ≠ .busy)
    (hd : decodeHost s.host = some (pseudo, rest))
    (hrun : ∀ u : State, exec pseudo u =
      exec (decodeOpcode (BitVec.ofNat 8 op)) (u.setFraming (BitVec.ofNat 32 f))) :
    step s = step (State.setFraming (BitVec.ofNat 32 f)
      { s with host := .write 0 0 op :: rest }) := by
  rw [step_of_command hp hb hd, hrun]
  exact (step_of_command (s := State.setFraming (BitVec.ofNat 32 f)
    { s with host := .write 0 0 op :: rest }) hp hb (decodeHost_cmd op rest)).symm

/-- Settles O9. -/
theorem pseudoCommands : Obligations.PseudoCommands := by
  refine fun s => ⟨rfl, rfl, rfl, rfl, fun f op rest u hf hop hp hb hh hu => ?_⟩
  rw [hostAccess_cfgFraming] at hu
  cases hu
  have fused := fun pseudo => step_fused (f := f) (op := op) (rest := rest)
    (pseudo := pseudo) hp hb
  rw [hh] at fused
  rcases hf with rfl | rfl <;> rcases hop with rfl | rfl
  · exact fused .rawcompress rfl fun _ => rfl
  · exact fused .rawdecompress rfl fun _ => rfl
  · exact fused .zcompress rfl fun _ => rfl
  · exact fused .zdecompress rfl fun _ => rfl

/-! ### The checks of the configuration (R211, R270, R301, R310) -/

theorem wbitsOk_iff (s : State) :
    s.wbitsOk = true ↔ 9 ≤ s.cfgWbits.toNat ∧ s.cfgWbits.toNat ≤ 15 := by
  simp only [State.wbitsOk, Bool.and_eq_true, decide_eq_true_eq]

theorem configOk_iff (s : State) : s.configOk = true ↔
    (-1 ≤ s.cfgLevel.toInt ∧ s.cfgLevel.toInt ≤ 9) ∧
      (9 ≤ s.cfgWbits.toNat ∧ s.cfgWbits.toNat ≤ 15) ∧ s.cfgStrategy.toNat ≤ 4 ∧
      s.cfgFraming.toNat ≤ 1 := by
  simp only [State.configOk, Bool.and_eq_true, decide_eq_true_eq, wbitsOk_iff, and_assoc]

theorem decodeConfigOk_iff (s : State) : s.decodeConfigOk = true ↔
    (9 ≤ s.cfgWbits.toNat ∧ s.cfgWbits.toNat ≤ 15) ∧ s.cfgFraming.toNat ≤ 1 := by
  simp only [State.decodeConfigOk, Bool.and_eq_true, decide_eq_true_eq, wbitsOk_iff]

theorem execDecblk_refused {s : State} (h : ¬(s.wbitsOk = true ∧ s.wpos % 8 = 0)) :
    execDecblk s = .next (s.flagError .invalidConfig) := by
  rw [execDecblk, if_neg h, begin_raise_invalidConfig]

theorem execDecompress_refused {s : State} (h : s.decodeConfigOk = false) :
    execDecompress s = .next (s.flagError .invalidConfig) := by
  rw [execDecompress, h, if_neg Bool.false_ne_true, begin_raise_invalidConfig]

theorem execCompress_refused {s : State} (h : s.configOk = false) :
    execCompress s = .next (s.flagError .invalidConfig) := by
  have hbegin : s.begin.configOk = false := h
  rw [execCompress, command_of_error (e := .invalidConfig) (by simp [hbegin]),
    begin_raise_invalidConfig]

/-- Settles O15. -/
theorem configurationChecks : Obligations.ConfigurationChecks := by
  refine fun s => ⟨configOk_iff s, decodeConfigOk_iff s, fun hbad => ?_, execDecompress_refused,
    execCompress_refused, fun op => ?_⟩
  · refine execDecblk_refused ?_
    rw [wbitsOk_iff]
    omega
  · exact (command_of_error (body := fun _ => .error .invalidConfig) rfl).trans (congrArg _ (begin_raise_invalidConfig {} s))

end Machine

end Sys2Proof

/-! ## Elements outside their decode mode (R100, R112) -/

namespace Sys2Proof.Machine

/-- The decode mode is not one of those that admit the element. -/
theorem ne_of_admits {p q : Phase} {i : Instr} (hq : q.admits i = false) (hp : p.admits i = true) :
    q ≠ p := by
  rintro rfl
  exact absurd (hq.symm.trans hp) Bool.false_ne_true

section
variable {s : State}

theorem headerElement_outOfMode (f : Bool) (bt : BitVec 2) (g : State → State)
    (h : s.phase ≠ .blockHdr) : headerElement f bt g s = .fault .elementOutOfMode := by
  unfold headerElement
  split
  · next hp => exact absurd hp h
  · rfl

theorem execStoredLen_outOfMode (len nlen : BitVec 16) (h : s.phase ≠ .storedLen) :
    execStoredLen len nlen s = .fault .elementOutOfMode := by
  unfold execStoredLen
  split
  · next hp => exact absurd hp h
  · rfl

theorem execDynHdr_outOfMode (hlit hdist : BitVec 5) (hclen : BitVec 4) (h : s.phase ≠ .dynHdr) :
    execDynHdr hlit hdist hclen s = .fault .elementOutOfMode := by
  unfold execDynHdr
  split
  · next hp => exact absurd hp h
  · rfl

theorem execDynClLen_outOfMode (v : BitVec 3) (h : ∀ nl nd nc j, s.phase ≠ .dynClLen nl nd nc j) :
    execDynClLen v s = .fault .elementOutOfMode := by
  unfold execDynClLen
  split
  · next hp => exact (h _ _ _ _ hp).elim
  · rfl

theorem clElement_outOfMode (k n x : Nat) (h : ∀ nl nd seq, s.phase ≠ .dynLens nl nd seq) :
    clElement k n x s = .fault .elementOutOfMode := by
  unfold clElement
  split
  · next hp => exact (h _ _ _ hp).elim
  · rfl

theorem lengthElement_outOfMode {j : Nat} (x : Nat) (h : ∀ k, s.phase ≠ .lenExtra k (257 + j)) :
    lengthElement j x s = .fault .elementOutOfMode := by
  unfold lengthElement
  split
  · next hp => exact if_neg fun hsym => h _ (hsym ▸ hp)
  · rfl

theorem distCodeElement_outOfMode {k : BlockKind} (d n : Nat)
    (h : ∀ length, s.phase ≠ .distCode k length) :
    distCodeElement k d n s = .fault .elementOutOfMode := by
  unfold distCodeElement
  split
  · next hp => exact if_neg fun hk => h _ (hk ▸ hp)
  · rfl

theorem distElement_outOfMode {d : Nat} (x : Nat)
    (h : ∀ k length, s.phase ≠ .distExtra k length d) :
    distElement d x s = .fault .elementOutOfMode := by
  unfold distElement
  split
  · next hp => exact if_neg fun hd => h _ _ (hd ▸ hp)
  · rfl

theorem distInvalidElement_outOfMode {d : Nat} (h : ∀ k length, s.phase ≠ .distExtra k length d) :
    distInvalidElement d s = .fault .elementOutOfMode := by
  unfold distInvalidElement
  split
  · next hp => exact if_neg fun hd => h _ _ (hd ▸ hp)
  · rfl

theorem execZlibHdr_outOfMode (cmf flg : BitVec 8) (h : s.phase ≠ .zlibHdr) :
    execZlibHdr cmf flg s = .fault .elementOutOfMode := by
  unfold execZlibHdr
  split
  · next hp => exact absurd hp h
  · rfl

theorem execZlibAdler_outOfMode (v : BitVec 32) (h : s.phase ≠ .zlibAdler) :
    execZlibAdler v s = .fault .elementOutOfMode := by
  unfold execZlibAdler
  split
  · next hp => exact absurd hp h
  · rfl

/-! ### Which modes admit a symbol with extra bits -/

theorem admits_lenExtra {i : Instr} {j x : Nat} (hf : i.lengthFields = some (j, x))
    (k : BlockKind) : (Phase.lenExtra k (257 + j)).admits i = true := by
  simp only [Phase.admits, hf, beq_self_eq_true]

theorem admits_distExtra {i : Instr} {d x : Nat} (hf : i.distFields = some (d, x))
    (k : BlockKind) (length : Nat) : (Phase.distExtra k length d).admits i = true := by
  simp only [Phase.admits, hf, beq_self_eq_true]

theorem admits_dynLens {i : Instr} {p : Nat × Nat × Nat} (hf : i.clFields = some p)
    (nl nd : Nat) (seq : List Nat) : (Phase.dynLens nl nd seq).admits i = true := by
  simp only [Phase.admits, hf, Option.isSome_some]

theorem execElement_outOfMode {i : Instr} (hadm : s.phase.admits i = false) :
    execElement i s = .fault .elementOutOfMode := by
  by_cases hlen : ∃ p, i.lengthFields = some p
  · obtain ⟨⟨j, x⟩, hf⟩ := hlen
    rw [(execElement_of_lengthFields hf s).1]
    exact lengthElement_outOfMode x fun k => ne_of_admits hadm (admits_lenExtra hf k)
  by_cases hdist : ∃ p, i.distFields = some p
  · obtain ⟨⟨d, x⟩, hf⟩ := hdist
    have hmode := fun k length => ne_of_admits hadm (admits_distExtra hf k length)
    rcases execElement_of_distFields hf s with he | he <;> rw [he]
    · exact distElement_outOfMode x hmode
    · exact distInvalidElement_outOfMode hmode
  by_cases hcl : ∃ p, i.clFields = some p
  · obtain ⟨⟨k, n, x⟩, hf⟩ := hcl
    rw [execElement_of_clFields hf]
    exact clElement_outOfMode k n x fun nl nd seq => ne_of_admits hadm (admits_dynLens hf nl nd seq)
  cases i with
  | blockStored f =>
    exact headerElement_outOfMode f 0 (fun t => { t with phase := .storedLen })
      (ne_of_admits hadm rfl)
  | blockFixed f => exact headerElement_outOfMode f 1 _ (ne_of_admits hadm rfl)
  | blockDynamic f =>
    exact headerElement_outOfMode f 2 (fun t => { t with phase := .dynHdr })
      (ne_of_admits hadm rfl)
  | blockReserved f => exact headerElement_outOfMode f 3 _ (ne_of_admits hadm rfl)
  | storedLen len nlen => exact execStoredLen_outOfMode len nlen (ne_of_admits hadm rfl)
  | storedData payload => 
    exact if_neg (ne_of_admits (p := .storedData payload.length) hadm (beq_self_eq_true _))
  | fixedLit0To143 | fixedLit144To255 | fixedEob | fixedLen257To279 | fixedLen280To285
  | fixedLL286To287 | dynLit | dynEob | dynLen => exact if_neg (ne_of_admits hadm rfl)
  | fixedDist d => exact distCodeElement_outOfMode d.toNat 5 fun _ => ne_of_admits hadm rfl
  | dynDist d n => exact distCodeElement_outOfMode d.toNat n.toNat fun _ => ne_of_admits hadm rfl
  | dynHdr nl nd nc =>
    exact execDynHdr_outOfMode nl nd nc (ne_of_admits hadm rfl)
  | dynClLen v => exact execDynClLen_outOfMode v fun _ _ _ _ => ne_of_admits hadm rfl
  | zlibHdr cmf flg => exact execZlibHdr_outOfMode cmf flg (ne_of_admits hadm rfl)
  | zlibAdler v => exact execZlibAdler_outOfMode v (ne_of_admits hadm rfl)
  | _ =>
    first
    | rfl
    | exact absurd ⟨_, rfl⟩ hlen
    | exact absurd ⟨_, rfl⟩ hdist
    | exact absurd ⟨_, rfl⟩ hcl

end

/-- Settles O59: each shared operation asks for its mode first. -/
theorem elementOutOfModeStops : Obligations.ElementOutOfModeStops := by
  intro i s hcmd hadm
  rw [exec_eq_execElement (by rw [hcmd]; rfl)]
  exact execElement_outOfMode hadm

end Sys2Proof.Machine

/-! ## The bit reader and writer as commands (R140 to R151) -/

namespace Sys2Proof.Machine

/-! ### Writes of consecutive elements, one after the other -/

section
variable {w : Nat}

theorem findCell_writeRun (m : Memory w) (a : Nat) (vs : List (BitVec w)) (i : Nat) :
    findCell (m.writeRun a vs).cells i =
      if a ≤ i ∧ i < a + vs.length then vs[i - a]? else findCell m.cells i := by
  simp only [Memory.writeRun, findCell_append, findCell_filter (fun b => decide (b < a)),
    findCell_runCells, findCell_filter (fun b => decide (a + vs.length ≤ b)), decide_eq_true_eq]
  rcases Nat.lt_or_ge i a with hlt | hle
  · simp [hlt, Nat.not_le.2 hlt, show ¬a + vs.length ≤ i by omega]
  · rcases Nat.lt_or_ge i (a + vs.length) with hin | hout
    · simp [hle, hin, Nat.not_lt.2 hle, show i - a < vs.length by omega]
    · simp [hle, hout, Nat.not_lt.2 hle, Nat.not_lt.2 hout, show vs.length ≤ i - a by omega]

/-- A run over the element just written hides it. -/
theorem writeRun_write_same {m : Memory w} (hwf : m.wf = true) (a : Nat) (x : BitVec w)
    {vs : List (BitVec w)} (hvs : 0 < vs.length) : (m.write a x).writeRun a vs = m.writeRun a vs := by
  refine Memory.ext_of_wf (Memory.wf_writeRun _ _ _ (m.wf_write a x hwf))
    (m.wf_writeRun _ _ hwf) rfl fun i => ?_
  rw [Memory.write, findCell_writeRun, findCell_writeRun, findCell_writeRun, List.length_singleton]
  by_cases hi : a ≤ i ∧ i < a + vs.length
  · rw [if_pos hi, if_pos hi]
  · rw [if_neg hi, if_neg hi, if_neg (by omega)]

/-- A run after the element just written continues it. -/
theorem writeRun_write_next {m : Memory w} (hwf : m.wf = true) (a : Nat) (x : BitVec w)
    (vs : List (BitVec w)) : (m.write a x).writeRun (a + 1) vs = m.writeRun a (x :: vs) := by
  refine Memory.ext_of_wf (Memory.wf_writeRun _ _ _ (m.wf_write a x hwf))
    (m.wf_writeRun _ _ hwf) rfl fun i => ?_
  rw [Memory.write, findCell_writeRun, findCell_writeRun, findCell_writeRun]
  rcases Nat.lt_trichotomy i a with hlt | rfl | hgt
  · simp [Nat.not_le.2 hlt, show ¬a + 1 ≤ i by omega]
  · simp
  · obtain ⟨d, rfl⟩ := Nat.exists_eq_add_of_lt hgt
    simp [Nat.add_assoc, Nat.add_comm 1, Nat.add_sub_add_left]

end

/-! ### `WriteBits` bit by bit (R141) -/

theorem appendBits_of_ne_nil {bits : List Bool} (h : bits ≠ []) (s : State) :
    s.appendBits bits =
      { s with
        obuf := s.obuf.writeRun (s.wpos / 8) (packBits s.begun (s.wpos % 8) bits)
        wpos := s.wpos + bits.length } :=
  if_neg (by simpa using h)

/-- The byte at the cursor after one more bit (R141). -/
def State.begunWith (s : State) (b : Bool) : Nat := s.begun ||| b.toNat <<< (s.wpos % 8)

/-- One bit written as the body of R141's loop writes it. -/
def State.writeBit (s : State) (b : Bool) : State :=
  { s with
    obuf := s.obuf.write (s.wpos / 8) (BitVec.ofNat 8 (s.begunWith b)), wpos := s.wpos + 1 }

theorem begunWith_lt (s : State) (b : Bool) : s.begunWith b < 2 ^ 8 := by
  refine Nat.or_lt_two_pow ?_ ?_
  · unfold State.begun
    split
    · decide
    · exact (s.obufAt _).isLt
  · calc b.toNat <<< (s.wpos % 8) = b.toNat * 2 ^ (s.wpos % 8) := Nat.shiftLeft_eq ..
      _ ≤ 1 * 2 ^ 7 := Nat.mul_le_mul (Bool.toNat_le b) (Nat.pow_le_pow_right (by decide) (by omega))
      _ < 2 ^ 8 := by decide

theorem begun_writeBit (b : Bool) {s : State} (h : s.wpos % 8 ≠ 7) :
    (s.writeBit b).begun = s.begunWith b := by
  have hoff : (s.wpos + 1) % 8 ≠ 0 := by omega
  have hbyte : (s.wpos + 1) / 8 = s.wpos / 8 := by omega
  simpa [State.begun, State.writeBit, State.obufAt, hoff, hbyte, Memory.read_write_self]
    using begunWith_lt s b

theorem begun_eq_zero {s : State} (h : s.wpos % 8 = 0) : s.begun = 0 := if_pos h

/-- The bits appended at once are the bits written one by one. -/
theorem appendBits_cons (b : Bool) (bs : List Bool) {s : State} (hwf : s.obuf.wf = true) :
    s.appendBits (b :: bs) = (s.writeBit b).appendBits bs := by
  have hpack : packBits s.begun (s.wpos % 8) (b :: bs) =
      if s.wpos % 8 = 7 then BitVec.ofNat 8 (s.begunWith b) :: packBits 0 0 bs
      else packBits (s.begunWith b) (s.wpos % 8 + 1) bs := rfl
  rw [appendBits_of_ne_nil (List.cons_ne_nil b bs), hpack]
  by_cases hbs : bs = []
  · subst hbs
    split_ifs <;> rfl
  rw [appendBits_of_ne_nil hbs]
  split_ifs with h7
  · have hnext : (s.wpos + 1) / 8 = s.wpos / 8 + 1 := by omega
    have hoff : (s.wpos + 1) % 8 = 0 := by omega
    rw [begun_eq_zero hoff]
    simp [State.writeBit, hnext, hoff, writeRun_write_next hwf, Nat.add_assoc, Nat.add_comm 1]
  · have hsame : (s.wpos + 1) / 8 = s.wpos / 8 := by omega
    have hoff : (s.wpos + 1) % 8 = s.wpos % 8 + 1 := by omega
    have hlen : 0 < (packBits (s.begunWith b) (s.wpos % 8 + 1) bs).length := by
      rw [length_packBits _ _ _ (by omega)]
      omega
    rw [begun_writeBit b h7]
    simp [State.writeBit, hsame, hoff, writeRun_write_same hwf _ _ hlen, Nat.add_assoc,
      Nat.add_comm 1]

theorem writeBitLoop_succ (v i n : Nat) (s : State) :
    writeBitLoop v i (n + 1) s = writeBitLoop v (i + 1) n (s.writeBit ((v >>> i).testBit 0)) := by
  have hstored : (if s.wpos % 8 = 0 then BitVec.ofNat 8 ((v >>> i) % 2)
      else s.obufAt (s.wpos / 8) ||| BitVec.ofNat 8 (((v >>> i) % 2) <<< (s.wpos % 8))) =
      BitVec.ofNat 8 (s.begunWith ((v >>> i).testBit 0)) := by
    rw [State.begunWith, State.begun, Nat.toNat_testBit, Nat.pow_zero, Nat.div_one]
    split_ifs with h0
    · simp [h0]
    · rw [BitVec.ofNat_or, BitVec.ofNat_toNat, BitVec.setWidth_eq]
  rw [writeBitLoop]
  simp only [hstored]
  rfl

/-- The loop of R141 does what the model's `WriteBits` does. -/
theorem writeBitLoop_eq_appendBits (v i n : Nat) {s : State} (hwf : s.obuf.wf = true) :
    writeBitLoop v i n s = s.appendBits (bitsOf (v >>> i) n) := by
  induction n generalizing i s with
  | zero => rfl
  | succ n ih =>
    rw [writeBitLoop_succ, ih (i + 1) (Memory.wf_write _ _ _ hwf), bitsOf_succ,
      appendBits_cons _ _ hwf, ← Nat.shiftRight_succ]

/-- A command around `WriteBits` changes the flags besides. -/
theorem finish_appendBits_begin (bits : List Bool) (s : State) :
    (s.begin.appendBits bits).finish = { s.appendBits bits with status := .done, err := none } := by
  unfold State.appendBits
  split <;> rfl

theorem execWrbits_of_large {s : State} (h : 32 < s.arg1.toNat) :
    execWrbits s = .next (s.flagError .invalidConfig) := by
  rw [execWrbits, command_of_error (if_pos h), begin_raise_invalidConfig]

theorem execWrbits_of_le {s : State} (h : s.arg1.toNat ≤ 32) :
    execWrbits s = .next (s.begin.writeBits s.arg0.toNat s.arg1.toNat).finish := by
  rw [execWrbits, command_of_ok (if_neg (Nat.not_lt.2 h))]
  rfl

/-- Settles O19: the body of the command is the loop. -/
theorem wrbitsIsTheWriteLoop : Obligations.WrbitsIsTheWriteLoop := by
  refine fun s => ⟨execWrbits_of_large, fun hsmall hwf => ?_⟩
  rw [writeBitLoop_eq_appendBits _ _ _ hwf, ← finish_appendBits_begin]
  exact execWrbits_of_le hsmall

/-! ### `RDBITS` (R143, R148) -/

theorem execRdbits_of_large {s : State} (h : 32 < s.arg0.toNat) :
    execRdbits s = .next (s.flagError .invalidConfig) := by
  rw [execRdbits, command_of_error (if_pos h), begin_raise_invalidConfig]

theorem execRdbits_of_short {s : State} (hn : s.arg0.toNat ≤ 32) (h : s.remaining < s.arg0.toNat) :
    execRdbits s = .next (s.begin.raise { rpos := true } .truncatedInput) := by
  have hread : s.begin.readBits s.begin.arg0.toNat = none := readBits_of_lt h
  rw [execRdbits, command_of_error ((if_neg (Nat.not_lt.2 hn)).trans (by rw [hread]))]

theorem execRdbits_of_le {s : State} (hn : s.arg0.toNat ≤ 32) (h : s.arg0.toNat ≤ s.remaining) :
    execRdbits s = .next { s with
      status := .done, err := none, rpos := s.rpos + s.arg0.toNat
      res0 := BitVec.ofNat 32 (fieldAt s.streamBit 0 s.arg0.toNat) } := by
  have hread : s.begin.readBits s.begin.arg0.toNat =
      some (fieldAt s.streamBit 0 s.arg0.toNat, s.begin.skip s.arg0.toNat) := readBits_of_le h
  rw [execRdbits, command_of_ok ((if_neg (Nat.not_lt.2 hn)).trans (by rw [hread]))]
  rfl

/-- Bit `k` of a field read into a 32-bit register. -/
theorem getLsbD_fieldAt (bit : Nat → Bool) (n : Nat) {k : Nat} (hk : k < 32) :
    (BitVec.ofNat 32 (fieldAt bit 0 n)).getLsbD k = (decide (k < n) && bit k) := by
  rw [BitVec.getLsbD_ofNat, testBit_fieldAt, Nat.zero_add, decide_eq_true hk, Bool.true_and]

/-- Settles O22: the command's three cases, the result's bits one by one. -/
theorem rdbitsResult : Obligations.RdbitsResult := fun s =>
  ⟨execRdbits_of_large,
    fun hn hshort => ⟨_, execRdbits_of_short hn hshort, keptAfterError_begin_raise _ s (by decide),
      raise_rpos_of_keep rfl s.begin _⟩,
    fun hn hle => ⟨_, execRdbits_of_le hn hle, fun _ hk => getLsbD_fieldAt s.streamBit _ hk⟩⟩

/-! ### The cursors (R140, R149, R150) -/

theorem execBitinit_eq (s : State) : execBitinit s = .next s.begin.clearCursors.finish := rfl

theorem execAlignw_eq (s : State) : execAlignw s = .next s.begin.alignW.finish := rfl

theorem execAlignr_eq (s : State) : execAlignr s = .next s.begin.alignR.finish := rfl

/-- Settles O18: each of the three is one update of the state and raises no error. -/
theorem cursorCommands : Obligations.CursorCommands := fun s =>
  ⟨⟨_, execBitinit_eq s, by simp [State.olen_eq], rfl, rfl⟩, execAlignw_eq s, execAlignr_eq s⟩

/-! ### Fields written and read back (R151) -/

/-- Bit `p` of the output (R63). -/
def State.outBit (s : State) (p : Nat) : Bool := (s.obufAt (p / 8)).getLsbD (p % 8)

/-- The output is a list of bits, and the byte begun after them is padded with 0 (R27). -/
structure State.Wrote (s : State) (bits : List Bool) : Prop where
  wpos : s.wpos = bits.length
  out : BitsAt s.outBit 0 bits
  pad : s.PadZero

theorem padZero_appendBits {s : State} (hpad : s.PadZero) (bits : List Bool) :
    (s.appendBits bits).PadZero := by
  intro hoff
  rw [State.appendBits_wpos] at hoff ⊢
  refine Nat.lt_pow_two_of_testBit _ fun i hi => ?_
  rw [BitVec.testBit_toNat]
  by_cases h8 : i < 8
  · have hbit := outputBit_appendBits hpad bits (p := 8 * ((s.wpos + bits.length) / 8) + i) (by omega)
    rw [if_neg (by omega), List.getD_eq_default _ _ (by omega), Nat.mul_add_div (by decide),
      Nat.mul_add_mod, Nat.div_eq_of_lt h8, Nat.mod_eq_of_lt h8] at hbit
    exact hbit
  · exact BitVec.getLsbD_of_ge _ _ (Nat.le_of_not_lt h8)

theorem wrote_nil {s : State} (h : s.wpos = 0) : s.Wrote [] :=
  ⟨h, fun _ hk => absurd hk (Nat.not_lt_zero _), fun hoff => absurd (by rw [h]) hoff⟩

theorem State.Wrote.appendBits {s : State} {l : List Bool} (h : s.Wrote l) (m : List Bool) :
    (s.appendBits m).Wrote (l ++ m) := by
  refine ⟨by simp [h.wpos], fun k hk => ?_, padZero_appendBits h.pad m⟩
  rw [List.length_append] at hk
  have hbit := outputBit_appendBits h.pad m (p := k) (by rw [h.wpos]; omega)
  rw [h.wpos] at hbit
  rw [Nat.zero_add]
  refine hbit.trans ?_
  by_cases hkl : k < l.length
  · have hold := h.out k hkl
    rw [Nat.zero_add] at hold
    rw [if_pos hkl, List.getElem_append_left hkl, ← hold, State.outBit]
  · rw [if_neg hkl, List.getElem_append_right (Nat.le_of_not_lt hkl), List.getD_eq_getElem]

/-- The bits of a list of fields, value and width, in the order written (R151). -/
def fieldBits (fields : List (Nat × Nat)) : List Bool := fields.flatMap fun f => bitsOf f.1 f.2

theorem State.Wrote.writeFields {s : State} {l : List Bool} (h : s.Wrote l)
    (fields : List (Nat × Nat)) :
    (fields.foldl (fun t f => t.writeBits f.1 f.2) s).Wrote (l ++ fieldBits fields) := by
  induction fields generalizing s l with
  | nil => simpa [fieldBits] using h
  | cons f fs ih =>
    have := ih (h.appendBits (bitsOf f.1 f.2))
    rwa [List.append_assoc] at this

/-- An input that holds the padded output starts with the bits written. -/
theorem State.Wrote.startsWith {t u : State} {bits : List Bool} (h : t.Wrote bits)
    (hrpos : u.rpos = 0) (hilen : u.ilen = t.alignW.olen)
    (hbytes : ∀ i < u.ilen, u.ibufAt i = t.alignW.obufAt i) :
    StartsWith u.streamBit u.remaining bits := by
  have hlen : u.ilen = (bits.length + 7) / 8 := by
    rw [hilen, State.olen_eq, State.alignW_wpos, h.wpos]
    omega
  refine ⟨by rw [State.remaining_eq]; omega, fun k hk => ?_⟩
  rw [← h.out k hk, State.streamBit, State.outBit, hrpos, hbytes _ (by omega), Nat.zero_add]
  rfl

/-- The fields the input starts with are read in order (R143). -/
theorem readFields_of_startsWith {fields : List (Nat × Nat)} {u : State}
    (h : StartsWith u.streamBit u.remaining (fieldBits fields)) :
    readFields (fields.map (·.2)) u = some (fields.map fun f => f.1 % 2 ^ f.2) := by
  induction fields generalizing u with
  | nil => rfl
  | cons f fs ih =>
    have hsplit : fieldBits (f :: fs) = bitsOf f.1 f.2 ++ fieldBits fs := List.flatMap_cons
    rw [hsplit] at h
    obtain ⟨hfirst, hnext⟩ := h.at_cursor.append
    have hfits := h.fits
    rw [List.length_append, length_bitsOf] at hfits
    have hrest : StartsWith (u.skip f.2).streamBit (u.skip f.2).remaining (fieldBits fs) := by
      refine ⟨by rw [remaining_skip]; omega, fun k hk => ?_⟩
      rw [streamBit_skip, Nat.zero_add]
      simpa using hnext k hk
    simp only [List.map_cons, readFields, readBits_of_le (Nat.le_of_add_right_le hfits), ih hrest,
      fieldAt_bitsOf hfirst, Option.map_some]

/-- Settles O21: what was written is what the input starts with, and that is what is read. -/
theorem writeReadDuality : Obligations.WriteReadDuality :=
  fun _ _ fields hwpos _ hrpos hilen hbytes =>
    readFields_of_startsWith
      (((wrote_nil hwpos).writeFields fields).startsWith hrpos hilen hbytes)

end Sys2Proof.Machine

/-! ## The lengths of package-merge (R162 to R166)

The first items of one round are the first leaves and the first packages, which hold the first items of the
round before; a leaf that occurs in one of these packages is no heavier than it, so it is among those first
leaves too. So leaf `j` occurs in the topmost rounds, one occurrence each, and the widths of the
items selected fix the Kraft sum. -/

namespace Sys2Proof.Machine

/-! ### The symbols used (R162) -/

theorem length_forceOne (f : List Nat) : (forceOne f).length = f.length := by
  induction f with
  | nil => rfl
  | cons x xs ih =>
    unfold forceOne
    split <;> simp [ih]

@[simp] theorem length_forceTwo (f : List Nat) : (forceTwo f).length = f.length := by
  unfold forceTwo
  simp only
  split_ifs <;> simp only [length_forceOne]

/-- One more symbol is used, if there is one left. -/
theorem length_used_forceOne (f : List Nat) :
    ((forceOne f).filter (0 < ·)).length = min ((f.filter (0 < ·)).length + 1) f.length := by
  induction f with
  | nil => rfl
  | cons x xs ih =>
    have hle : (xs.filter (0 < ·)).length ≤ xs.length := List.length_filter_le _ _
    unfold forceOne
    split
    · next h0 => simp [h0, hle]
    · next h0 =>
      have hpos : 0 < x := Nat.pos_of_ne_zero h0
      simp only [List.filter_cons, hpos, decide_true, if_true, List.length_cons, ih]
      omega

theorem two_le_used_forceTwo {f : List Nat} (h : 2 ≤ f.length) :
    2 ≤ ((forceTwo f).filter (0 < ·)).length := by
  have hone := length_used_forceOne f
  have htwo := length_used_forceOne (forceOne f)
  rw [length_forceOne] at htwo
  unfold forceTwo
  simp only
  split_ifs <;> omega

/-! ### The used symbols in order (R163) -/

/-- The order of R163 on (symbol, frequency) pairs: increasing frequency, then decreasing symbol. -/
def UsedBefore (p q : Nat × Nat) : Prop := p.2 < q.2 ∨ p.2 = q.2 ∧ q.1 < p.1

theorem perm_insertUsed (p : Nat × Nat) (l : List (Nat × Nat)) : (insertUsed p l).Perm (p :: l) := by
  induction l with
  | nil => exact .refl _
  | cons q qs ih =>
    unfold insertUsed
    split
    · exact .refl _
    · exact (ih.cons q).trans (.swap p q qs)

theorem pairwise_insertUsed {p : Nat × Nat} {l : List (Nat × Nat)} (hl : l.Pairwise UsedBefore)
    (hp : ∀ q ∈ l, q.1 < p.1) : (insertUsed p l).Pairwise UsedBefore := by
  induction l with
  | nil => exact List.pairwise_singleton ..
  | cons q qs ih =>
    obtain ⟨hq, hqs⟩ := List.pairwise_cons.1 hl
    have hp' : ∀ r ∈ qs, r.1 < p.1 := fun r hr => hp r (List.mem_cons_of_mem _ hr)
    unfold insertUsed
    split
    · next hle =>
      refine List.pairwise_cons.2 ⟨fun r hr => ?_, hl⟩
      have hqr : q.2 ≤ r.2 := by
        rcases List.mem_cons.1 hr with rfl | hr
        · exact Nat.le_refl _
        · rcases hq r hr with h | ⟨h, -⟩ <;> omega
      have := hp r hr
      unfold UsedBefore
      omega
    · next hlt =>
      refine List.pairwise_cons.2 ⟨fun r hr => ?_, ih hqs hp'⟩
      rcases List.mem_cons.1 ((perm_insertUsed p qs).subset hr) with rfl | hr
      · exact .inl (Nat.lt_of_not_le hlt)
      · exact hq r hr

theorem mem_sortUsed {sym : Nat} {acc : List (Nat × Nat)} {l : List Nat} {p : Nat × Nat} :
    p ∈ sortUsed sym acc l ↔ p ∈ acc ∨ ∃ i, l[i]? = some p.2 ∧ p.2 ≠ 0 ∧ p.1 = sym + i := by
  induction l generalizing sym acc with
  | nil => simp [sortUsed]
  | cons f fs ih =>
    have hacc : p ∈ (if f = 0 then acc else insertUsed (sym, f) acc) ↔
        p ∈ acc ∨ (f = p.2 ∧ p.2 ≠ 0 ∧ p.1 = sym) := by
      split_ifs with h0
      · exact ⟨.inl, fun h => h.resolve_right fun ⟨he, hne, _⟩ => hne (he ▸ h0)⟩
      · rw [(perm_insertUsed _ _).mem_iff, List.mem_cons, or_comm, Prod.ext_iff]
        refine or_congr_right ⟨fun ⟨hs, hf⟩ => ⟨hf.symm, fun h => h0 (hf.symm.trans h), hs⟩,
          fun ⟨hf, _, hs⟩ => ⟨hs, hf.symm⟩⟩
    rw [sortUsed, ih, hacc, or_assoc]
    refine or_congr_right ⟨?_, ?_⟩
    · rintro (⟨hf, hne, hs⟩ | ⟨i, hi, hne, hs⟩)
      · exact ⟨0, by simp [hf], hne, hs⟩
      · exact ⟨i + 1, by simpa using hi, hne, by omega⟩
    · rintro ⟨_ | i, hi, hne, hs⟩
      · exact .inl ⟨by simpa using hi, hne, hs⟩
      · exact .inr ⟨i, by simpa using hi, hne, by omega⟩

theorem length_sortUsed (sym : Nat) (acc : List (Nat × Nat)) (l : List Nat) :
    (sortUsed sym acc l).length = acc.length + (l.filter (0 < ·)).length := by
  induction l generalizing sym acc with
  | nil => rfl
  | cons f fs ih =>
    rw [sortUsed, ih]
    split_ifs with h0
    · simp [h0]
    · have hpos : 0 < f := Nat.pos_of_ne_zero h0
      rw [(perm_insertUsed _ _).length_eq, List.filter_cons_of_pos (by simpa using hpos),
        List.length_cons, List.length_cons]
      omega

theorem pairwise_sortUsed {sym : Nat} {acc : List (Nat × Nat)} (l : List Nat)
    (hacc : acc.Pairwise UsedBefore) (hsym : ∀ q ∈ acc, q.1 < sym) :
    (sortUsed sym acc l).Pairwise UsedBefore := by
  induction l generalizing sym acc with
  | nil => exact hacc
  | cons f fs ih =>
    unfold sortUsed
    split_ifs
    · exact ih hacc fun q hq => Nat.lt_succ_of_lt (hsym q hq)
    · refine ih (pairwise_insertUsed hacc hsym) fun q hq => ?_
      rcases List.mem_cons.1 ((perm_insertUsed _ _).subset hq) with rfl | hq
      · exact Nat.lt_succ_self _
      · exact Nat.lt_succ_of_lt (hsym q hq)

/-! ### Items and how often a leaf occurs in them (R164) -/

/-- The leaves of package-merge. -/
def pkgLeaves (w : List Nat) : List PkgItem := w.zipIdx.map fun p => pkgLeaf w.length p.2 p.1

/-- How often leaf `j` occurs in some items. -/
def tally (xs : List PkgItem) (j : Nat) : Nat := (xs.map fun x => x.counts.getD j 0).sum

/-- What every item is: it counts the leaves there are, and is no lighter than a leaf in it. -/
structure PkgItem.Fits (w : List Nat) (x : PkgItem) : Prop where
  length : x.counts.length = w.length
  weight : ∀ j, 0 < x.counts.getD j 0 → w.getD j 0 ≤ x.weight

@[simp] theorem tally_nil (j : Nat) : tally [] j = 0 := rfl

@[simp] theorem tally_cons (x : PkgItem) (xs : List PkgItem) (j : Nat) :
    tally (x :: xs) j = x.counts.getD j 0 + tally xs j := by simp [tally]

@[simp] theorem tally_append (xs ys : List PkgItem) (j : Nat) :
    tally (xs ++ ys) j = tally xs j + tally ys j := by simp [tally]

theorem tally_perm {xs ys : List PkgItem} (h : xs.Perm ys) (j : Nat) : tally xs j = tally ys j :=
  (h.map _).sum_eq

/-- A leaf that occurs in some items is a leaf, and one of the items is no lighter. -/
theorem exists_le_weight_of_tally_pos {w : List Nat} {xs : List PkgItem} (hxs : ∀ x ∈ xs, x.Fits w)
    {j : Nat} (h : 0 < tally xs j) : j < w.length ∧ ∃ x ∈ xs, w.getD j 0 ≤ x.weight := by
  induction xs with
  | nil => exact absurd h (Nat.lt_irrefl 0)
  | cons x xs ih =>
    obtain ⟨hlen, hweight⟩ := hxs x List.mem_cons_self
    rcases Nat.eq_zero_or_pos (x.counts.getD j 0) with h0 | hpos
    · rw [tally_cons, h0, Nat.zero_add] at h
      obtain ⟨hj, y, hy, hle⟩ := ih (fun y hy => hxs y (List.mem_cons_of_mem _ hy)) h
      exact ⟨hj, y, List.mem_cons_of_mem _ hy, hle⟩
    · refine ⟨?_, x, List.mem_cons_self, hweight j hpos⟩
      by_contra hj
      rw [List.getD_eq_default _ _ (by omega)] at hpos
      exact absurd hpos (Nat.lt_irrefl 0)

/-! ### Leaves -/

@[simp] theorem length_pkgLeaves (w : List Nat) : (pkgLeaves w).length = w.length := by
  simp [pkgLeaves]

theorem getElem_pkgLeaves (w : List Nat) {i : Nat} (h : i < (pkgLeaves w).length) :
    (pkgLeaves w)[i] = pkgLeaf w.length i (w.getD i 0) := by
  have hi : i < w.length := by simpa using h
  simp [pkgLeaves, hi]

theorem getD_counts_pkgLeaf {k i : Nat} (h : i < k) (x j : Nat) :
    (pkgLeaf k i x).counts.getD j 0 = if j = i then 1 else 0 := by
  by_cases hj : j < k
  · simp [pkgLeaf, hj]
  · simp [pkgLeaf, hj, show j ≠ i by omega]

theorem fits_of_mem_pkgLeaves {w : List Nat} {x : PkgItem} (h : x ∈ pkgLeaves w) : x.Fits w := by
  obtain ⟨i, hi, rfl⟩ := List.getElem_of_mem h
  rw [getElem_pkgLeaves]
  refine ⟨by simp [pkgLeaf], fun j hj => ?_⟩
  rw [getD_counts_pkgLeaf (by simpa using hi)] at hj
  split_ifs at hj with hji
  · exact (congrArg (w.getD · 0) hji).le
  · exact absurd hj (Nat.lt_irrefl 0)

/-- Each of the first leaves occurs once in them. -/
theorem tally_take_pkgLeaves (w : List Nat) {t : Nat} (ht : t ≤ w.length) (j : Nat) :
    tally ((pkgLeaves w).take t) j = if j < t then 1 else 0 := by
  induction t with
  | zero => rfl
  | succ t ih =>
    rw [List.take_succ_eq_append_getElem (by simpa using ht), tally_append, ih (by omega),
      getElem_pkgLeaves, tally_cons, tally_nil, getD_counts_pkgLeaf ht]
    split_ifs <;> omega

theorem pairwise_pkgLeaves {w : List Nat} (hw : w.Pairwise (· ≤ ·)) :
    (pkgLeaves w).Pairwise fun x y => x.weight ≤ y.weight := by
  refine List.pairwise_iff_getElem.2 fun i j hi hj hij => ?_
  have hle := List.pairwise_iff_getElem.1 hw i j (by simpa using hi) (by simpa using hj) hij
  simpa [pkgLeaves, pkgLeaf] using hle

/-! ### Packages -/

theorem length_pkgPairs (xs : List PkgItem) : (pkgPairs xs).length = xs.length / 2 := by
  induction xs using pkgPairs.induct with
  | case1 x y ys ih => simp [pkgPairs, ih]; omega
  | case2 xs h =>
    match xs with
    | [] => rfl
    | [_] => simp [pkgPairs]
    | x :: y :: ys => exact (h _ _ _ rfl).elim

theorem getD_zipWith_add {a b : List Nat} (h : a.length = b.length) (j : Nat) :
    (List.zipWith (· + ·) a b).getD j 0 = a.getD j 0 + b.getD j 0 := by
  by_cases hj : j < a.length
  · simp [hj, h ▸ hj]
  · simp [hj, h ▸ hj]

theorem fits_pkgPairs {w : List Nat} {xs : List PkgItem} (hxs : ∀ x ∈ xs, x.Fits w) :
    ∀ x ∈ pkgPairs xs, x.Fits w := by
  induction xs using pkgPairs.induct with
  | case1 x y ys ih =>
    obtain ⟨hxlen, hx⟩ := hxs x (by simp)
    obtain ⟨hylen, hy⟩ := hxs y (by simp)
    rw [pkgPairs, List.forall_mem_cons]
    refine ⟨⟨by simp [hxlen, hylen], fun j hj => ?_⟩, ih fun z hz => hxs z (by simp [hz])⟩
    rw [getD_zipWith_add (hxlen.trans hylen.symm)] at hj
    rcases Nat.eq_zero_or_pos (x.counts.getD j 0) with h0 | hpos
    · exact (hy j (by omega)).trans (Nat.le_add_left _ _)
    · exact (hx j hpos).trans (Nat.le_add_right _ _)
  | case2 xs h =>
    match xs with
    | [] => exact fun _ hx => nomatch hx
    | [_] => exact fun _ hx => nomatch hx
    | x :: y :: ys => exact (h _ _ _ rfl).elim

/-- The first packages hold the leaves of the first items. -/
theorem tally_take_pkgPairs {w : List Nat} {xs : List PkgItem} (hxs : ∀ x ∈ xs, x.Fits w) {p : Nat}
    (hp : p ≤ (pkgPairs xs).length) (j : Nat) :
    tally ((pkgPairs xs).take p) j = tally (xs.take (2 * p)) j := by
  induction xs using pkgPairs.induct generalizing p with
  | case1 x y ys ih =>
    cases p with
    | zero => rfl
    | succ p =>
      have hlen : x.counts.length = y.counts.length :=
        (hxs x (by simp)).length.trans (hxs y (by simp)).length.symm
      rw [pkgPairs, List.length_cons] at hp
      rw [pkgPairs, List.take_succ_cons, tally_cons, getD_zipWith_add hlen,
        ih (fun z hz => hxs z (by simp [hz])) (by omega), Nat.mul_succ, List.take_succ_cons,
        List.take_succ_cons, tally_cons, tally_cons, Nat.add_assoc]
  | case2 xs h =>
    have h0 : p = 0 := by
      match xs with
      | [] => simpa [pkgPairs] using hp
      | [_] => simpa [pkgPairs] using hp
      | x :: y :: ys => exact (h _ _ _ rfl).elim
    rw [h0]
    rfl

/-! ### Merging -/

theorem pkgMerge_cons_cons (a b : PkgItem) (as bs : List PkgItem) :
    pkgMerge (a :: as) (b :: bs) =
      if b.weight < a.weight then b :: pkgMerge (a :: as) bs else a :: pkgMerge as (b :: bs) := by
  split_ifs with h <;> simp [pkgMerge, h]

@[simp] theorem pkgMerge_nil_right (as : List PkgItem) : pkgMerge as [] = as := by
  induction as with
  | nil => rfl
  | cons a as ih => simp [pkgMerge, ih]

theorem perm_pkgMerge (as bs : List PkgItem) : (pkgMerge as bs).Perm (as ++ bs) := by
  induction as generalizing bs with
  | nil => exact .refl _
  | cons a as ih =>
    have hsplit := List.takeWhile_append_dropWhile (p := fun b => b.weight < a.weight) (l := bs)
    rw [pkgMerge]
    refine List.perm_middle.trans (.cons a ?_)
    refine ((ih _).append_left _).trans ?_
    conv => rhs; rw [← hsplit]
    simpa [List.append_assoc] using
      (List.perm_append_comm (l₁ := bs.takeWhile fun b => b.weight < a.weight) (l₂ := as)).append_right
        (bs.dropWhile fun b => b.weight < a.weight)

/-- The first items of a merge are the first of each list; what they leave of the one list is heavier than
what they take of the other: the first list goes first on equal weights. -/
theorem exists_take_pkgMerge {as bs : List PkgItem}
    (has : as.Pairwise fun x y => x.weight ≤ y.weight) {m : Nat} (hm : m ≤ as.length + bs.length) :
    ∃ t p, t + p = m ∧ t ≤ as.length ∧ p ≤ bs.length ∧
      ((pkgMerge as bs).take m).Perm (as.take t ++ bs.take p) ∧
      ∀ b ∈ bs.take p, ∀ a ∈ as.drop t, b.weight < a.weight := by
  induction m generalizing as bs with
  | zero => exact ⟨0, 0, rfl, Nat.zero_le _, Nat.zero_le _, by simp, by simp⟩
  | succ m ih =>
    match as, bs with
    | [], bs => exact ⟨0, m + 1, by omega, Nat.le_refl _, by simpa using hm, .refl _, by simp⟩
    | a :: as, [] => exact ⟨m + 1, 0, rfl, by simpa using hm, Nat.le_refl _, by simp, by simp⟩
    | a :: as, b :: bs =>
      obtain ⟨ha, hrest⟩ := List.pairwise_cons.1 has
      simp only [List.length_cons] at hm
      rw [pkgMerge_cons_cons]
      split_ifs with hlt
      · obtain ⟨t, p, hsum, ht, hp, hperm, hheavy⟩ := ih has (bs := bs) (by simp; omega)
        refine ⟨t, p + 1, by omega, ht, by simpa using hp, ?_, ?_⟩
        · exact (hperm.cons b).trans List.perm_middle.symm
        · rw [List.take_succ_cons, List.forall_mem_cons]
          refine ⟨fun x hx => hlt.trans_le ?_, hheavy⟩
          rcases List.mem_cons.1 (List.mem_of_mem_drop hx) with rfl | hx
          · exact Nat.le_refl _
          · exact ha x hx
      · obtain ⟨t, p, hsum, ht, hp, hperm, hheavy⟩ := ih hrest (bs := b :: bs) (by simp; omega)
        exact ⟨t + 1, p, by omega, by simpa using ht, hp, hperm.cons a, hheavy⟩

/-! ### Rounds -/

theorem fits_pkgRounds (w : List Nat) (n : Nat) :
    ∀ x ∈ pkgRounds (pkgLeaves w) n, x.Fits w := by
  induction n with
  | zero => exact fun _ => fits_of_mem_pkgLeaves
  | succ n ih =>
    intro x hx
    rcases List.mem_append.1 ((perm_pkgMerge _ _).subset hx) with hx | hx
    · exact fits_of_mem_pkgLeaves hx
    · exact fits_pkgPairs ih x hx

theorem length_pkgRounds_succ (w : List Nat) (n : Nat) :
    (pkgRounds (pkgLeaves w) (n + 1)).length =
      w.length + (pkgRounds (pkgLeaves w) n).length / 2 := by
  rw [pkgRounds, (perm_pkgMerge _ _).length_eq, List.length_append, length_pkgLeaves, length_pkgPairs]

/-- How many items of `2k − 1` a round still lacks. -/
theorem length_pkgRounds (w : List Nat) (hw : w ≠ []) (n : Nat) :
    (pkgRounds (pkgLeaves w) n).length + (w.length - 1) / 2 ^ n = 2 * w.length - 1 := by
  have hpos : 0 < w.length := List.length_pos_iff.2 hw
  induction n with
  | zero =>
    rw [pkgRounds, length_pkgLeaves, Nat.pow_zero, Nat.div_one]
    omega
  | succ n ih =>
    rw [length_pkgRounds_succ, Nat.pow_succ, ← Nat.div_div_eq_div_mul]
    omega

/-- `PackageMerge` has enough items to select `2k − 2` (R164). -/
theorem select_le_length_pkgRounds {w : List Nat} {n : Nat} (hw : w ≠ [])
    (h : w.length ≤ 2 ^ (n + 1)) : 2 * w.length - 2 ≤ (pkgRounds (pkgLeaves w) n).length := by
  have hlen := length_pkgRounds w hw n
  have hpos : 0 < w.length := List.length_pos_iff.2 hw
  rw [Nat.pow_succ] at h
  have hlt : (w.length - 1) / 2 ^ n < 2 := Nat.div_lt_of_lt_mul (by omega)
  omega

/-! ### What the first items of a round count -/

/-- `f j` is how often leaf `j` of `k` occurs in items of rounds below `n`: the earlier leaf never less
often, each in the topmost rounds. An item of round `r` is `2^r` wide, and the widths sum to `width`. -/
structure LevelCounts (k n width : Nat) (f : Nat → Nat) : Prop where
  antitone : Antitone f
  le : ∀ j, f j ≤ n
  space : ∑ j ∈ Finset.range k, 2 ^ (n - f j) + width = k * 2 ^ n

theorem LevelCounts.empty (k : Nat) : LevelCounts k 0 0 fun _ => 0 :=
  ⟨antitone_const, fun _ => Nat.le_refl _, by simp⟩

/-- One more round, of which the first `t` leaves are taken, among them all that occur below. -/
theorem LevelCounts.succ {k n width : Nat} {f : Nat → Nat} (h : LevelCounts k n width f) {t : Nat}
    (ht : t ≤ k) (hf : ∀ j, 0 < f j → j < t) :
    LevelCounts k (n + 1) (width + t * 2 ^ n) fun j => (if j < t then 1 else 0) + f j where
  antitone := fun i j hij => by
    have := h.antitone hij
    simp only
    split_ifs <;> omega
  le := fun j => by
    have := h.le j
    split_ifs <;> omega
  space := by
    have each : ∀ j, 2 ^ (n + 1 - ((if j < t then 1 else 0) + f j)) + (if j < t then 2 ^ n else 0) =
        2 ^ (n - f j) + 2 ^ n := by
      intro j
      split_ifs with hj
      · rw [show n + 1 - (1 + f j) = n - f j by omega]
      · have h0 : f j = 0 := by have := hf j; omega
        rw [h0, Nat.add_zero, Nat.sub_zero, Nat.sub_zero, Nat.pow_succ]
        omega
    have leaves : ∑ j ∈ Finset.range k, (if j < t then 2 ^ n else 0) = t * 2 ^ n := by
      rw [← Finset.sum_filter, Finset.sum_const, smul_eq_mul]
      congr 1
      rw [show (Finset.range k).filter (· < t) = Finset.range t by ext j; simp; omega,
        Finset.card_range]
    have total := Finset.sum_congr rfl fun j (_ : j ∈ Finset.range k) => each j
    rw [Finset.sum_add_distrib, Finset.sum_add_distrib, leaves, Finset.sum_const, Finset.card_range,
      smul_eq_mul] at total
    have := h.space
    rw [Nat.pow_succ, ← Nat.mul_assoc]
    omega

/-- The first `m` items of a round, each `2^n` wide (R164). -/
theorem levelCounts_take_pkgRounds {w : List Nat} (hw : w.Pairwise (· ≤ ·)) (n : Nat) {m : Nat}
    (hm : m ≤ (pkgRounds (pkgLeaves w) n).length) :
    LevelCounts w.length (n + 1) (m * 2 ^ n) (tally ((pkgRounds (pkgLeaves w) n).take m)) := by
  induction n generalizing m with
  | zero =>
    have hmw : m ≤ w.length := by simpa [pkgRounds] using hm
    have htally : tally ((pkgRounds (pkgLeaves w) 0).take m) = fun j => (if j < m then 1 else 0) + 0 :=
      funext fun j => tally_take_pkgLeaves w hmw j
    rw [htally, ← Nat.zero_add (m * 2 ^ 0)]
    exact (LevelCounts.empty _).succ hmw fun j hj => absurd hj (Nat.lt_irrefl 0)
  | succ n ih =>
    have hitems := fits_pkgRounds w n
    rw [pkgRounds, (perm_pkgMerge _ _).length_eq, List.length_append] at hm
    obtain ⟨t, p, hsum, ht, hp, hperm, hheavy⟩ := exists_take_pkgMerge (pairwise_pkgLeaves hw) hm
    rw [length_pkgLeaves] at ht
    have hbelow : 2 * p ≤ (pkgRounds (pkgLeaves w) n).length := by
      rw [length_pkgPairs] at hp
      omega
    have hleaf : ∀ j, 0 < tally ((pkgRounds (pkgLeaves w) n).take (2 * p)) j → j < t := by
      intro j hj
      rw [← tally_take_pkgPairs hitems hp] at hj
      obtain ⟨hjw, x, hx, hle⟩ := exists_le_weight_of_tally_pos
        (fun x hx => fits_pkgPairs hitems x (List.mem_of_mem_take hx)) hj
      by_contra hjt
      have hmem : pkgLeaf w.length j (w.getD j 0) ∈ (pkgLeaves w).drop t := by
        rw [← getElem_pkgLeaves w (by simpa using hjw)]
        exact List.mem_drop_iff_getElem.2 ⟨j - t, by simp; omega,
          by simp [Nat.add_sub_cancel' (Nat.le_of_not_lt hjt)]⟩
      exact absurd hle (Nat.not_le.2 (hheavy x hx _ hmem))
    have htally : tally ((pkgRounds (pkgLeaves w) (n + 1)).take m) = fun j =>
        (if j < t then 1 else 0) + tally ((pkgRounds (pkgLeaves w) n).take (2 * p)) j := by
      funext j
      rw [pkgRounds, tally_perm hperm, tally_append, tally_take_pkgLeaves w ht,
        tally_take_pkgPairs hitems hp]
    have hwidth : m * 2 ^ (n + 1) = 2 * p * 2 ^ n + t * 2 ^ (n + 1) := by
      rw [← hsum, Nat.pow_succ]
      ring
    rw [htally, hwidth]
    exact (ih hbelow).succ ht hleaf

/-! ### Sums over lists of lengths -/

theorem sum_map_eq_sum_range (f : Nat → Nat) (l : List Nat) :
    (l.map f).sum = ∑ j ∈ Finset.range l.length, f (l.getD j 0) := by
  induction l with
  | nil => rfl
  | cons x xs ih => simp [Finset.sum_range_succ', ih, Nat.add_comm]

/-- Lengths assigned to the first symbols sum up as over the symbols that have one (R14). -/
theorem kraftSum_map_range (maxBits : Nat) {k : Nat} {syms : List Nat} {len : Nat → Nat}
    (hnodup : syms.Nodup) (hused : ∀ s, 0 < len s → (s < k ↔ s ∈ syms)) :
    kraftSum maxBits ((List.range k).map len) = kraftSum maxBits (syms.map len) := by
  have hperm : ((List.range k).filter fun s => decide (0 < len s)).Perm
      (syms.filter fun s => decide (0 < len s)) := by
    refine (List.perm_ext_iff_of_nodup (List.nodup_range.filter _) (hnodup.filter _)).2 fun s => ?_
    simp only [List.mem_filter, List.mem_range, decide_eq_true_eq]
    exact and_congr_left (hused s)
  rw [kraftSum, kraftSum, List.filter_map, List.filter_map]
  exact ((hperm.map len).map _).sum_eq

/-! ### The lengths selected -/

theorem foldl_counts {xs : List PkgItem} {acc : List Nat}
    (h : ∀ x ∈ xs, x.counts.length = acc.length) :
    (xs.foldl (fun acc x => List.zipWith (· + ·) acc x.counts) acc).length = acc.length ∧
      ∀ j, (xs.foldl (fun acc x => List.zipWith (· + ·) acc x.counts) acc).getD j 0 =
        acc.getD j 0 + tally xs j := by
  induction xs generalizing acc with
  | nil => exact ⟨rfl, fun _ => rfl⟩
  | cons x xs ih =>
    have hx := h x List.mem_cons_self
    have hlen : (List.zipWith (· + ·) acc x.counts).length = acc.length := by simp [hx]
    obtain ⟨hl, hget⟩ := ih (acc := List.zipWith (· + ·) acc x.counts)
      fun y hy => (h y (List.mem_cons_of_mem _ hy)).trans hlen.symm
    refine ⟨hl.trans hlen, fun j => ?_⟩
    rw [List.foldl_cons, hget, getD_zipWith_add hx.symm, tally_cons, Nat.add_assoc]

/-- The length of a position is how often its leaf occurs among the items selected (R164). -/
theorem packageMerge_spec (w : List Nat) (n : Nat) :
    (packageMerge w (n + 1)).length = w.length ∧
      ∀ j, (packageMerge w (n + 1)).getD j 0 =
        tally ((pkgRounds (pkgLeaves w) n).take (2 * w.length - 2)) j := by
  have hcounts : ∀ x ∈ (pkgRounds (pkgLeaves w) n).take (2 * w.length - 2),
      x.counts.length = (List.replicate w.length 0).length := fun x hx => by
    rw [List.length_replicate]
    exact (fits_pkgRounds w n x (List.mem_of_mem_take hx)).length
  obtain ⟨hlen, hget⟩ := foldl_counts hcounts
  refine ⟨hlen.trans (by simp), fun j => (hget j).trans ?_⟩
  rw [List.getD_eq_getElem?_getD, List.getElem?_getD_replicate_default_eq, Nat.zero_add]

section
variable {w : List Nat} {n : Nat} (hw : w.Pairwise (· ≤ ·)) (htwo : 2 ≤ w.length)
  (hmax : w.length ≤ 2 ^ (n + 1))
include hw htwo hmax

theorem levelCounts_packageMerge :
    LevelCounts w.length (n + 1) ((2 * w.length - 2) * 2 ^ n)
      fun j => (packageMerge w (n + 1)).getD j 0 := by
  have hne : w ≠ [] := List.length_pos_iff.1 (by omega)
  rw [funext (packageMerge_spec w n).2]
  exact levelCounts_take_pkgRounds hw n (select_le_length_pkgRounds hne hmax)

theorem packageMerge_space :
    ∑ j ∈ Finset.range w.length, 2 ^ (n + 1 - (packageMerge w (n + 1)).getD j 0) = 2 ^ (n + 1) := by
  have hspace := (levelCounts_packageMerge hw htwo hmax).space
  obtain ⟨k, hk⟩ := Nat.exists_eq_add_of_le htwo
  have hwidth : w.length * 2 ^ (n + 1) = 2 ^ (n + 1) + (2 * w.length - 2) * 2 ^ n := by
    rw [hk, show 2 * (2 + k) - 2 = 2 * (1 + k) by omega, Nat.pow_succ]
    ring
  omega

/-- No position has length 0: its codeword alone would fill the code space. -/
theorem packageMerge_pos {j : Nat} (hj : j < w.length) : 0 < (packageMerge w (n + 1)).getD j 0 := by
  by_contra h0
  obtain ⟨i, hi, hij⟩ : ∃ i, i < w.length ∧ i ≠ j := by
    by_cases h : j = 0
    · exact ⟨1, by omega, by omega⟩
    · exact ⟨0, by omega, by omega⟩
  have hlt := Finset.single_lt_sum (f := fun j => 2 ^ (n + 1 - (packageMerge w (n + 1)).getD j 0)) hij
    (Finset.mem_range.2 hj) (Finset.mem_range.2 hi) (Nat.two_pow_pos _) fun _ _ _ => Nat.zero_le _
  rw [packageMerge_space hw htwo hmax] at hlt
  simp only [Nat.eq_zero_of_not_pos h0] at hlt
  exact absurd hlt (Nat.lt_irrefl _)

/-- The lengths of package-merge are those of a complete code (R166(b)). -/
theorem kraftSum_packageMerge : kraftSum (n + 1) (packageMerge w (n + 1)) = 2 ^ (n + 1) := by
  have hlen := (packageMerge_spec w n).1
  have hpos : ∀ l ∈ packageMerge w (n + 1), decide (0 < l) = true := fun l hl => by
    obtain ⟨j, hj, rfl⟩ := List.getElem_of_mem hl
    rw [decide_eq_true_eq, ← List.getD_eq_getElem (d := 0)]
    exact packageMerge_pos hw htwo hmax (hlen ▸ hj)
  rw [kraftSum, List.filter_eq_self.2 hpos, ← packageMerge_space hw htwo hmax, ← hlen,
    sum_map_eq_sum_range]

end

/-! ### The lengths of the symbols (R161) -/

/-- `order` of R161. -/
def usedOrder (freqs : List Nat) : List (Nat × Nat) := sortUsed 0 [] (forceTwo freqs)

/-- The used symbols, least frequent first. -/
def usedSyms (freqs : List Nat) : List Nat := (usedOrder freqs).map (·.1)

/-- `w` of R161. -/
def usedWeights (freqs : List Nat) : List Nat := (usedOrder freqs).map (·.2)

theorem mem_usedOrder {freqs : List Nat} {p : Nat × Nat} :
    p ∈ usedOrder freqs ↔ 0 < p.2 ∧ p.2 = (forceTwo freqs).getD p.1 0 := by
  rw [usedOrder, mem_sortUsed]
  constructor
  · rintro (h | ⟨i, hi, hne, hs⟩)
    · exact nomatch h
    · rw [hs, Nat.zero_add, List.getD_eq_getElem?_getD, hi]
      exact ⟨Nat.pos_of_ne_zero hne, rfl⟩
  · rintro ⟨hpos, hp⟩
    refine .inr ⟨p.1, ?_, hpos.ne', (Nat.zero_add _).symm⟩
    by_cases hlt : p.1 < (forceTwo freqs).length
    · rw [hp, List.getD_eq_getElem _ _ hlt, List.getElem?_eq_getElem hlt]
    · rw [List.getD_eq_default _ _ (Nat.le_of_not_lt hlt)] at hp
      omega

theorem mem_usedSyms {freqs : List Nat} {s : Nat} :
    s ∈ usedSyms freqs ↔ 0 < (forceTwo freqs).getD s 0 := by
  simp [usedSyms, mem_usedOrder]

theorem pairwise_usedOrder (freqs : List Nat) : (usedOrder freqs).Pairwise UsedBefore :=
  pairwise_sortUsed _ .nil fun _ h => nomatch h

theorem pairwise_usedWeights (freqs : List Nat) : (usedWeights freqs).Pairwise (· ≤ ·) := by
  refine List.pairwise_map.2 ((pairwise_usedOrder freqs).imp fun h => ?_)
  rcases h with h | ⟨h, -⟩
  · exact h.le
  · exact h.le

theorem nodup_usedSyms (freqs : List Nat) : (usedSyms freqs).Nodup := by
  refine List.pairwise_map.2 ((pairwise_usedOrder freqs).imp_of_mem fun hp hq h heq => ?_)
  have hp2 := (mem_usedOrder.1 hp).2
  have hq2 := (mem_usedOrder.1 hq).2
  rw [heq] at hp2
  rcases h with h | ⟨-, h⟩ <;> omega

theorem lt_nsym_of_mem_usedSyms {a : Alphabet} {freqs : List Nat} (hlen : freqs.length = a.nsym)
    {s : Nat} (h : s ∈ usedSyms freqs) : s < a.nsym := by
  by_contra hs
  rw [mem_usedSyms, List.getD_eq_default _ _ (by rw [length_forceTwo]; omega)] at h
  exact absurd h (Nat.lt_irrefl 0)

/-- The position of a used symbol holds it with its frequency. -/
theorem getElem_usedOrder_idxOf {freqs : List Nat} {s : Nat}
    (h : (usedSyms freqs).idxOf s < (usedOrder freqs).length) :
    (usedOrder freqs)[(usedSyms freqs).idxOf s] = (s, (forceTwo freqs).getD s 0) := by
  have hlt : (usedSyms freqs).idxOf s < (usedSyms freqs).length := by
    rwa [usedSyms, List.length_map]
  have hsym : ((usedOrder freqs)[(usedSyms freqs).idxOf s]).1 = s :=
    (List.getElem_map (l := usedOrder freqs) Prod.fst).symm.trans (List.getElem_idxOf hlt)
  have hmem := (mem_usedOrder.1 (List.getElem_mem h)).2
  rw [hsym] at hmem
  exact Prod.ext hsym hmem

theorem idxOf_usedSyms_lt {freqs : List Nat} {s : Nat} (h : 0 < (forceTwo freqs).getD s 0) :
    (usedSyms freqs).idxOf s < (usedOrder freqs).length := by
  simpa [usedSyms] using List.idxOf_lt_length_iff.2 (mem_usedSyms.2 h)

/-- The order of the positions of used symbols (R163). -/
theorem idxOf_usedSyms_le {freqs : List Nat} {s t : Nat} (hs : 0 < (forceTwo freqs).getD s 0)
    (ht : 0 < (forceTwo freqs).getD t 0)
    (h : UsedBefore (s, (forceTwo freqs).getD s 0) (t, (forceTwo freqs).getD t 0)) :
    (usedSyms freqs).idxOf s ≤ (usedSyms freqs).idxOf t := by
  by_contra hlt
  have hbefore := List.pairwise_iff_getElem.1 (pairwise_usedOrder freqs) _ _ (idxOf_usedSyms_lt ht)
    (idxOf_usedSyms_lt hs) (Nat.lt_of_not_le hlt)
  rw [getElem_usedOrder_idxOf, getElem_usedOrder_idxOf] at hbefore
  unfold UsedBefore at h hbefore
  omega

/-- Looking up a list of keys paired with values. -/
theorem lookup_zip {xs ys : List Nat} (h : xs.length = ys.length) (s : Nat) :
    ((xs.zip ys).lookup s).getD 0 = ys.getD (xs.idxOf s) 0 := by
  induction xs generalizing ys with
  | nil => simp [List.eq_nil_of_length_eq_zero h.symm]
  | cons x xs ih =>
    match ys with
    | y :: ys =>
      rw [List.zip_cons_cons, List.lookup_cons, List.idxOf_cons]
      by_cases hx : x = s
      · simp [hx]
      · simp only [beq_eq_false_iff_ne.2 hx, beq_eq_false_iff_ne.2 (Ne.symm hx), cond_false,
          List.getD_cons_succ]
        exact ih (by simpa using h)

theorem nsym_le_nlen (a : Alphabet) : a.nsym ≤ a.nlen := by cases a <;> decide

/-- `MAXBITS` is not 0, there are two symbols, and codewords enough for all (R160). -/
theorem exists_maxBits_eq (a : Alphabet) :
    ∃ n, a.maxBits = n + 1 ∧ 2 ≤ a.nsym ∧ a.nsym ≤ 2 ^ (n + 1) := by
  cases a with
  | ll => exact ⟨14, rfl, by decide, by decide⟩
  | d => exact ⟨14, rfl, by decide, by decide⟩
  | cl => exact ⟨6, rfl, by decide, by decide⟩

section
variable {a : Alphabet} {freqs : List Nat} (hlen : freqs.length = a.nsym)

include hlen in
/-- The weights have a code: at least two, and not too many (R162, R164). -/
theorem length_usedWeights : 2 ≤ (usedWeights freqs).length ∧ (usedWeights freqs).length ≤ a.nsym := by
  obtain ⟨n, -, htwo, -⟩ := exists_maxBits_eq a
  have hused : (usedWeights freqs).length = ((forceTwo freqs).filter (0 < ·)).length := by
    rw [usedWeights, List.length_map, usedOrder, length_sortUsed, List.length_nil, Nat.zero_add]
  rw [hused]
  refine ⟨two_le_used_forceTwo (hlen ▸ htwo), (List.length_filter_le _ _).trans ?_⟩
  rw [length_forceTwo, hlen]

/-- The length of a position's symbol, and 0 for a symbol without position (R161). -/
def positionLength (a : Alphabet) (freqs : List Nat) (s : Nat) : Nat :=
  (packageMerge (usedWeights freqs) a.maxBits).getD ((usedSyms freqs).idxOf s) 0

theorem length_packageMerge_usedWeights (a : Alphabet) (freqs : List Nat) :
    (packageMerge (usedWeights freqs) a.maxBits).length = (usedSyms freqs).length := by
  obtain ⟨n, hn, -⟩ := exists_maxBits_eq a
  rw [hn, (packageMerge_spec _ _).1, usedWeights, usedSyms, List.length_map, List.length_map]

theorem codeLengths_eq (a : Alphabet) (freqs : List Nat) :
    codeLengths a freqs = (List.range a.nlen).map (positionLength a freqs) :=
  List.map_congr_left fun s _ => lookup_zip (length_packageMerge_usedWeights a freqs).symm s

theorem getD_codeLengths {s : Nat} (hs : s < a.nlen) :
    (codeLengths a freqs).getD s 0 = positionLength a freqs s := by
  simp [codeLengths_eq, hs]

theorem positionLength_of_unused {s : Nat} (h : s ∉ usedSyms freqs) : positionLength a freqs s = 0 :=
  List.getD_eq_default _ _ (by
    rw [length_packageMerge_usedWeights, List.idxOf_eq_length h])

include hlen in
theorem levelCounts_codeLengths :
    ∃ width, LevelCounts (usedWeights freqs).length a.maxBits width
      fun j => (packageMerge (usedWeights freqs) a.maxBits).getD j 0 := by
  obtain ⟨n, hn, -, hmax⟩ := exists_maxBits_eq a
  obtain ⟨htwo, hle⟩ := length_usedWeights hlen
  rw [hn]
  exact ⟨_, levelCounts_packageMerge (pairwise_usedWeights freqs) htwo (hle.trans hmax)⟩

include hlen in
theorem positionLength_pos {s : Nat} (h : 0 < (forceTwo freqs).getD s 0) :
    0 < positionLength a freqs s := by
  obtain ⟨n, hn, -, hmax⟩ := exists_maxBits_eq a
  obtain ⟨htwo, hle⟩ := length_usedWeights hlen
  rw [positionLength, hn]
  refine packageMerge_pos (pairwise_usedWeights freqs) htwo (hle.trans hmax) ?_
  rw [usedWeights, List.length_map]
  exact idxOf_usedSyms_lt h

include hlen in
/-- A symbol that stands earlier in the order of R163 has no shorter code (R166(d), R166(e)). -/
theorem positionLength_le {s t : Nat} (hs : 0 < (forceTwo freqs).getD s 0)
    (ht : 0 < (forceTwo freqs).getD t 0)
    (h : UsedBefore (s, (forceTwo freqs).getD s 0) (t, (forceTwo freqs).getD t 0)) :
    positionLength a freqs t ≤ positionLength a freqs s := by
  obtain ⟨_, hcounts⟩ := levelCounts_codeLengths hlen
  exact hcounts.antitone (idxOf_usedSyms_le hs ht h)

theorem map_positionLength_usedSyms (a : Alphabet) (freqs : List Nat) :
    (usedSyms freqs).map (positionLength a freqs) = packageMerge (usedWeights freqs) a.maxBits := by
  refine List.ext_getElem (by rw [List.length_map, length_packageMerge_usedWeights]) fun j hj hj' => ?_
  rw [List.getElem_map, positionLength, (nodup_usedSyms freqs).idxOf_getElem, List.getD_eq_getElem]

include hlen in
theorem kraftSum_codeLengths : kraftSum a.maxBits (codeLengths a freqs) = 2 ^ a.maxBits := by
  obtain ⟨n, hn, -, hmax⟩ := exists_maxBits_eq a
  obtain ⟨htwo, hle⟩ := length_usedWeights hlen
  have hused : ∀ s, 0 < positionLength a freqs s → (s < a.nlen ↔ s ∈ usedSyms freqs) := by
    intro s hpos
    have hmem : s ∈ usedSyms freqs := by
      by_contra hs
      rw [positionLength_of_unused hs] at hpos
      exact absurd hpos (Nat.lt_irrefl 0)
    exact iff_of_true ((lt_nsym_of_mem_usedSyms hlen hmem).trans_le (nsym_le_nlen a)) hmem
  rw [codeLengths_eq, kraftSum_map_range _ (nodup_usedSyms freqs) hused,
    map_positionLength_usedSyms, hn]
  exact kraftSum_packageMerge (pairwise_usedWeights freqs) htwo (hle.trans hmax)

end

/-- Settles O24: the Kraft sum and the bounds are those of package-merge on the used symbols. -/
theorem huffmanLengthsComplete : Obligations.HuffmanLengthsComplete := by
  intro a freqs hlen
  refine ⟨length_codeLengths a freqs, fun i hi => ?_, kraftSum_codeLengths hlen⟩
  rw [getD_codeLengths hi]
  split_ifs with hused
  · obtain ⟨_, hcounts⟩ := levelCounts_codeLengths hlen
    exact ⟨positionLength_pos hlen hused, hcounts.le _⟩
  · exact positionLength_of_unused fun hmem => hused (mem_usedSyms.1 hmem)

/-- Settles O25: both follow from the order of R163, since package-merge's lengths never rise along it. -/
theorem huffmanLengthsOrdered : Obligations.HuffmanLengthsOrdered := by
  intro a freqs i j hlen hi hj hui huj
  have hle := nsym_le_nlen a
  rw [getD_codeLengths (hi.trans_le hle), getD_codeLengths (hj.trans_le hle)]
  exact ⟨fun hlt => positionLength_le hlen hui huj (.inl hlt),
    fun heq hij => positionLength_le hlen huj hui (.inr ⟨heq.symm, hij⟩)⟩

end Sys2Proof.Machine

/-! ## The canonical codes laid out (R170 to R172) -/

namespace Sys2Proof

theorem getElem?_of_getD_pos {l : List Nat} {i : Nat} (h : 0 < l.getD i 0) :
    l[i]? = some (l.getD i 0) := by
  by_cases hi : i < l.length
  · rw [List.getD_eq_getElem _ _ hi, List.getElem?_eq_getElem hi]
  · rw [List.getD_eq_default _ _ (Nat.le_of_not_lt hi)] at h
    exact absurd h (Nat.lt_irrefl 0)

/-- An unused symbol gets code 0 (R170). -/
theorem getD_assignCodes_of_unused (next : List Nat) {lens : List Nat} {i : Nat}
    (h : lens.getD i 0 = 0) : (assignCodes next lens).getD i 0 = 0 := by
  induction lens generalizing next i with
  | nil => simp [assignCodes]
  | cons l ls ih =>
    cases i with
    | zero =>
      obtain rfl : l = 0 := by simpa using h
      simp [assignCodes]
    | succ i =>
      unfold assignCodes
      split_ifs <;> exact ih _ (by simpa using h)

/-! ### Where a codeword lies (R171) -/

/-- Symbol `j` is used and stands before (`n`, `i`) in the order (length, symbol). -/
def standsBefore (lens : List Nat) (n i j : Nat) : Bool :=
  decide (0 < lens.getD j 0 ∧ (lens.getD j 0 < n ∨ lens.getD j 0 = n ∧ j < i))

theorem standsBefore_cons_succ (l : Nat) (ls : List Nat) (n i j : Nat) :
    standsBefore (l :: ls) n i (j + 1) = standsBefore ls n (i - 1) j := by
  have hji : j + 1 < i ↔ j < i - 1 := by omega
  simp only [standsBefore, List.getD_cons_succ, hji]

theorem firstCodeOf_cons (l : Nat) (ls : List Nat) (n : Nat) :
    firstCodeOf (l :: ls) n = (if 0 < l ∧ l < n then 2 ^ (n - l) else 0) + firstCodeOf ls n := rfl

theorem count_take_cons (l : Nat) (ls : List Nat) (n i : Nat) :
    ((l :: ls).take i).count n = (if l = n ∧ 0 < i then 1 else 0) + (ls.take (i - 1)).count n := by
  cases i with
  | zero => simp
  | succ i => simp [List.count_cons, Nat.add_comm]

/-- The code space of the symbols that stand before, the first of the list apart. -/
theorem spaceBefore_cons (maxBits l : Nat) (ls : List Nat) (n i : Nat) :
    (((List.range (l :: ls).length).filter (standsBefore (l :: ls) n i)).map
        fun j => 2 ^ (maxBits - (l :: ls).getD j 0)).sum =
      (if 0 < l ∧ (l < n ∨ l = n ∧ 0 < i) then 2 ^ (maxBits - l) else 0) +
        (((List.range ls.length).filter (standsBefore ls n (i - 1))).map
          fun j => 2 ^ (maxBits - ls.getD j 0)).sum := by
  have hrest : standsBefore (l :: ls) n i ∘ Nat.succ = standsBefore ls n (i - 1) :=
    funext (standsBefore_cons_succ l ls n i)
  have hhead : standsBefore (l :: ls) n i 0 = decide (0 < l ∧ (l < n ∨ l = n ∧ 0 < i)) := rfl
  rw [List.length_cons, List.range_succ_eq_map, List.filter_cons, List.filter_map, hrest, hhead]
  by_cases hl : 0 < l ∧ (l < n ∨ l = n ∧ 0 < i)
  · simp [hl, Function.comp_def]
  · simp [hl, Function.comp_def]

/-- A code of length `n`, left-aligned, is the code space of the symbols that stand before (R171). -/
theorem leftAligned_eq_spaceBefore {maxBits n : Nat} (lens : List Nat) (hn : 0 < n)
    (hle : n ≤ maxBits) (i : Nat) :
    (firstCodeOf lens n + (lens.take i).count n) * 2 ^ (maxBits - n) =
      (((List.range lens.length).filter (standsBefore lens n i)).map
        fun j => 2 ^ (maxBits - lens.getD j 0)).sum := by
  induction lens generalizing i with
  | nil => simp [firstCodeOf]
  | cons l ls ih =>
    have hshift : l < n → 2 ^ (n - l) * 2 ^ (maxBits - n) = 2 ^ (maxBits - l) := fun hl => by
      rw [← Nat.pow_add]
      congr 1
      omega
    have hhead : ((if 0 < l ∧ l < n then 2 ^ (n - l) else 0) + if l = n ∧ 0 < i then 1 else 0) *
        2 ^ (maxBits - n) = if 0 < l ∧ (l < n ∨ l = n ∧ 0 < i) then 2 ^ (maxBits - l) else 0 := by
      rcases Nat.lt_trichotomy l n with hl | rfl | hl
      · simp only [hl, hl.ne, hshift hl, and_true, true_or, false_and, if_false, Nat.add_zero,
          ite_mul, Nat.zero_mul]
      · simp [hn]
      · simp only [hl.ne', Nat.not_lt.2 hl.le, and_false, false_and, or_self, if_false,
          Nat.add_zero, Nat.zero_mul]
    rw [spaceBefore_cons, ← ih (i - 1), ← hhead, firstCodeOf_cons, count_take_cons]
    ring

section
variable {maxBits : Nat} {lens : List Nat} (hlens : ∀ m ∈ lens, m ≤ maxBits) {i j n m : Nat}
include hlens

/-- A codeword, left-aligned, is the code space of the symbols before it (R171). -/
theorem canonicalCode_leftAligned (hi : lens[i]? = some n) (hn : n ≠ 0) :
    (canonicalCodes maxBits lens).getD i 0 * 2 ^ (maxBits - n) =
      (((List.range lens.length).filter (standsBefore lens n i)).map
        fun j => 2 ^ (maxBits - lens.getD j 0)).sum := by
  rw [getD_canonicalCodes hlens hi hn]
  exact leftAligned_eq_spaceBefore lens (Nat.pos_of_ne_zero hn)
    (hlens n (List.mem_of_getElem? hi)) i

/-- Within one length codewords rise with the symbol (R171). -/
theorem canonicalCode_lt_of_lt (hi : lens[i]? = some n) (hj : lens[j]? = some n) (hn : n ≠ 0)
    (hij : i < j) :
    (canonicalCodes maxBits lens).getD i 0 < (canonicalCodes maxBits lens).getD j 0 := by
  rw [getD_canonicalCodes hlens hi hn, getD_canonicalCodes hlens hj hn]
  exact Nat.add_lt_add_left (count_take_lt hi hij) _

/-- A shorter codeword, left-aligned, ends before a longer one begins (R171). -/
theorem canonicalCode_leftAligned_lt (hi : lens[i]? = some n) (hj : lens[j]? = some m) (hn : n ≠ 0)
    (hnm : n < m) :
    ((canonicalCodes maxBits lens).getD i 0 + 1) * 2 ^ (maxBits - n) ≤
      (canonicalCodes maxBits lens).getD j 0 * 2 ^ (maxBits - m) := by
  have hm : m ≤ maxBits := hlens m (List.mem_of_getElem? hj)
  obtain ⟨k, rfl⟩ := Nat.exists_eq_add_of_lt hnm
  have hcount : (lens.take i).count n + 1 ≤ lens.count n := count_take_lt_count hi
  have hend := codes_end_le_firstCodeOf lens (k := k) (Nat.pos_of_ne_zero hn)
  have hpow : 2 ^ (maxBits - n) = 2 ^ (k + 1) * 2 ^ (maxBits - (n + k + 1)) := by
    rw [← Nat.pow_add]
    congr 1
    omega
  rw [getD_canonicalCodes hlens hi hn, getD_canonicalCodes hlens hj (by omega), hpow,
    ← Nat.mul_assoc]
  refine Nat.mul_le_mul_right _ ?_
  calc (firstCodeOf lens n + (lens.take i).count n + 1) * 2 ^ (k + 1)
      ≤ (firstCodeOf lens n + lens.count n) * 2 ^ (k + 1) := Nat.mul_le_mul_right _ (by omega)
    _ ≤ firstCodeOf lens (n + (k + 1)) := hend
    _ ≤ _ := Nat.le_add_right _ _

end

end Sys2Proof

namespace Sys2Proof.Machine

/-- Settles O27: a codeword is the first of its length plus the earlier symbols of that length; where the
codes of each length begin and end gives the rest. (The obligation's own name is the function's.) -/
theorem canonicalCodes_holds : Obligations.CanonicalCodes := by
  intro maxBits lens hlens hkraft c
  refine ⟨length_canonicalCodes maxBits lens, fun i h => getD_assignCodes_of_unused _ h,
    fun i hi => canonicalCode_leftAligned hlens (getElem?_of_getD_pos hi) hi.ne',
    fun i j hi hj => ?_⟩
  have hi' := getElem?_of_getD_pos hi
  have hj' := getElem?_of_getD_pos hj
  refine ⟨canonicalCode_lt hlens hkraft hi' hi.ne', fun heq hij => ?_,
    canonicalCode_leftAligned_lt hlens hi' hj' hi.ne',
    canonicalCode_not_begins hlens hi' hj' hi.ne'⟩
  exact canonicalCode_lt_of_lt hlens hi' (heq ▸ hj') hi.ne' hij

end Sys2Proof.Machine

/-! ## `HBUILD`, `HCANON` and `HPUT` as commands (R161, R170, R174) -/

namespace Sys2Proof.Machine

theorem alphabetOf_of_large {v : BitVec 32} (h : 2 < v.toNat) : alphabetOf v = none := by
  have hne : ∀ c : BitVec 32, c.toNat ≤ 2 → v ≠ c := by
    rintro c hc rfl
    omega
  rw [alphabetOf, if_neg (hne 0 (by decide)), if_neg (hne 1 (by decide)),
    if_neg (hne 2 (by decide))]

/-- `InvalidConfig` raised by a command changes the flags alone (R359). -/
theorem command_of_invalidConfig {k : ErrorKeep} {body : State → Except HwError State} {s : State}
    (h : body s.begin = .error .invalidConfig) :
    command k body s = .next (s.flagError .invalidConfig) := command_of_error h

section
variable {s : State} {a : Alphabet}

theorem alphabetOf_begin_of_large (h : 2 < s.arg0.toNat) : alphabetOf s.begin.arg0 = none :=
  alphabetOf_of_large h

theorem finish_setLens_begin (a : Alphabet) (lens : List Nat) (s : State) :
    (s.begin.setLens a lens).finish = { s.setLens a lens with status := .done, err := none } := by
  cases a <;> rfl

theorem finish_setCodes_begin (a : Alphabet) (codes : List Nat) (s : State) :
    (s.begin.setCodes a codes).finish = { s.setCodes a codes with status := .done, err := none } := by
  cases a <;> rfl

/-- The lengths a command's own rule keeps are there after its error (assumption log 5). -/
theorem raise_lens_of_keep {k : ErrorKeep} (hk : k.lens = some a) (s : State) (e : HwError) :
    (s.raise k e).lens a = s.lens a := by
  unfold State.raise
  split_ifs
  · cases a <;> rfl
  · cases a with
    | ll => exact lens_congr_ll (by simp [State.dropAfterError, keepLens, hk])
    | d => exact lens_congr_d (by simp [State.dropAfterError, keepLens, hk])
    | cl => exact lens_congr_cl (by simp [State.dropAfterError, keepLens, hk])

/-! ### `HBUILD` -/

theorem execHbuild_of_large (h : 2 < s.arg0.toNat) :
    execHbuild s = .next (s.flagError .invalidConfig) :=
  command_of_invalidConfig (by rw [alphabetOf_begin_of_large h])

theorem execHbuild_eq (h : alphabetOf s.arg0 = some a) :
    execHbuild s = .next (s.begin.setLens a (codeLengths a (s.begin.freqs a))).finish := by
  have hbegin : alphabetOf s.begin.arg0 = some a := h
  rw [execHbuild, command_of_ok (by rw [hbegin])]

/-! ### `HCANON` -/

theorem execHcanon_of_large (h : 2 < s.arg0.toNat) :
    execHcanon s = .next (s.flagError .invalidConfig) :=
  command_of_invalidConfig (by rw [alphabetOf_begin_of_large h])

theorem execHcanon_of_over (h : alphabetOf s.arg0 = some a)
    (hover : 2 ^ a.maxBits < kraftSum a.maxBits (s.lens a)) :
    execHcanon s = .next (s.begin.raise { lens := some a } .invalidHuffmanCode) := by
  have hbegin : alphabetOf s.begin.arg0 = some a := h
  rw [execHcanon, h]
  exact command_of_error (by rw [hbegin]; exact if_pos hover)

theorem execHcanon_of_le (h : alphabetOf s.arg0 = some a)
    (hle : kraftSum a.maxBits (s.lens a) ≤ 2 ^ a.maxBits) :
    execHcanon s =
      .next (s.begin.setCodes a (canonicalCodes a.maxBits (s.begin.lens a))).finish := by
  have hbegin : alphabetOf s.begin.arg0 = some a := h
  rw [execHcanon, command_of_ok (by rw [hbegin]; exact if_neg (Nat.not_lt.2 hle))]

/-! ### `HPUT` -/

theorem execHput_of_large (h : 2 < s.arg0.toNat) :
    execHput s = .next (s.flagError .invalidConfig) :=
  command_of_invalidConfig (by rw [alphabetOf_begin_of_large h])

theorem execHput_of_unused (h : alphabetOf s.arg0 = some a)
    (hunused : a.nlen ≤ s.arg1.toNat ∨ s.lenAt a s.arg1.toNat = 0) :
    execHput s = .next (s.flagError .invalidConfig) := by
  have hbegin : alphabetOf s.begin.arg0 = some a := h
  exact command_of_invalidConfig (by rw [hbegin]; exact if_pos hunused)

theorem execHput_of_used (h : alphabetOf s.arg0 = some a) (hsym : s.arg1.toNat < a.nlen)
    (hused : 0 < s.lenAt a s.arg1.toNat) :
    execHput s =
      .next (s.begin.putCode (s.codeAt a s.arg1.toNat) (s.lenAt a s.arg1.toNat)).finish := by
  have hbegin : alphabetOf s.begin.arg0 = some a := h
  have hlegal : ¬(a.nlen ≤ s.arg1.toNat ∨ s.lenAt a s.arg1.toNat = 0) := by omega
  rw [execHput, command_of_ok (by rw [hbegin]; exact if_neg hlegal)]
  rfl

end

/-- Settles O23: the command's two cases. -/
theorem hbuildResult : Obligations.HbuildResult := fun s =>
  ⟨execHbuild_of_large, fun a h => (execHbuild_eq h).trans
    (congrArg _ (finish_setLens_begin a (codeLengths a (s.freqs a)) s))⟩

/-- Settles O26: the command's three cases; the error keeps `LEN_a`. -/
theorem hcanonResult : Obligations.HcanonResult := fun s =>
  ⟨execHcanon_of_large, fun a h =>
    ⟨fun hover => ⟨_, execHcanon_of_over h hover, keptAfterError_begin_raise _ s (by decide),
        raise_lens_of_keep rfl s.begin _⟩,
      fun hle => (execHcanon_of_le h hle).trans
        (congrArg _ (finish_setCodes_begin a (canonicalCodes a.maxBits (s.lens a)) s))⟩⟩

/-- Settles O28: the command's three cases; `WriteBits` is the loop of R141. -/
theorem hputResult : Obligations.HputResult := by
  refine ⟨fun n c i hi => by simp [testBit_revBits, hi], fun s =>
    ⟨execHput_of_large, fun a h => ⟨execHput_of_unused h, fun hsym hused hwf => ?_⟩⟩⟩
  rw [writeBitLoop_eq_appendBits _ _ _ hwf, ← finish_appendBits_begin]
  exact execHput_of_used h hsym hused

end Sys2Proof.Machine

/-! ## The table of accepted lengths entry by entry (R191, R193, R194) -/

namespace Sys2Proof

/-- `r | (h << n)` of R191: its low `n` bits are `r`. -/
theorem or_shiftLeft_mod_two_pow {r n : Nat} (hr : r < 2 ^ n) (h : Nat) :
    (r ||| h <<< n) % 2 ^ n = r := by
  rw [Nat.or_mod_two_pow, Nat.shiftLeft_eq, Nat.mul_mod_left, Nat.or_zero, Nat.mod_eq_of_lt hr]

/-- An index that begins with no row's codeword is marked unmatched (R191). -/
theorem rowEntry_of_forall_ne {rows : List DecRow} {index : Nat}
    (h : ∀ r ∈ rows, index % 2 ^ r.len ≠ r.pattern) : rowEntry rows index = (0, 0) := by
  have hnone : (rows.find? fun r => index % 2 ^ r.len == r.pattern) = none :=
    List.find?_eq_none.2 fun r hr => by simpa using h r hr
  rw [rowEntry, hnone]

/-- Every index that begins with a symbol's codeword, as it arrives, holds the symbol and its length
(R193): accepted codewords are prefix-free. -/
theorem builtTable_entry_of_begins {a : Alphabet} {lens : List Nat} (hlen : lens.length = a.nlen)
    (hmax : ∀ n ∈ lens, n ≤ a.maxBits) (hacc : codeAccepted a lens = true) {sym n index : Nat}
    (hsym : lens[sym]? = some n) (hn : n ≠ 0)
    (hindex : index % 2 ^ n = revBits n ((canonicalCodes a.maxBits lens).getD sym 0)) :
    (builtTable a lens).entry a index = (sym, n) := by
  have hok : Machine.tableOk a (builtTable a lens) = true :=
    Machine.tableOk_of_tableOfCode ⟨lens, hlen, hmax, hacc, rfl⟩
  have hrow : ⟨revBits n ((canonicalCodes a.maxBits lens).getD sym 0), n, sym⟩ ∈
      decodeRows 0 lens (canonicalCodes a.maxBits lens) :=
    (mem_decodeRows (by simp)).2 ⟨sym, n, hsym, hn, by rw [Nat.zero_add]⟩
  exact rowEntry_of_mem hok hrow hindex

/-- An index that begins with no codeword is marked unmatched (R191, R194). -/
theorem builtTable_entry_of_unmatched {a : Alphabet} {lens : List Nat} {index : Nat}
    (h : ∀ sym n, lens[sym]? = some n → n ≠ 0 →
      index % 2 ^ n ≠ revBits n ((canonicalCodes a.maxBits lens).getD sym 0)) :
    (builtTable a lens).entry a index = (0, 0) := by
  refine rowEntry_of_forall_ne fun r hr => ?_
  obtain ⟨sym, n, hsym, hn, rfl⟩ := (mem_decodeRows (by simp)).1 hr
  exact h sym n hsym hn

/-- The codes accepted (R192), in the order of its checks. -/
theorem codeAccepted_iff {a : Alphabet} {lens : List Nat} :
    codeAccepted a lens = true ↔
      kraftSum a.maxBits lens = 2 ^ a.maxBits ∨
        (kraftSum a.maxBits lens < 2 ^ a.maxBits ∧ a = .d ∧
          ((lens.filter (0 < ·)).length = 0 ∨
            ((lens.filter (0 < ·)).length = 1 ∧ (lens.filter (0 < ·)).head? = some 1))) := by
  have hone : ∀ used : List Nat, used = [1] ↔ used.length = 1 ∧ used.head? = some 1 := by
    intro used
    match used with
    | [] | [n] | n :: m :: ls => simp
  simp only [codeAccepted, Bool.or_eq_true, Bool.and_eq_true, beq_iff_eq, decide_eq_true_eq,
    List.length_eq_zero_iff, ← hone, and_assoc]

end Sys2Proof

/-! ## `HDBUILD` and `HDSYM` as commands (R191, R192, R196) -/

namespace Sys2Proof.Machine

/-- Settles O30: the entry of an index that begins with a codeword, and of one that begins with none. -/
theorem builtTableEntries : Obligations.BuiltTableEntries := by
  intro a lens hlen hmax hacc code
  constructor
  · intro sym h hused _
    exact builtTable_entry_of_begins hlen hmax hacc (getElem?_of_getD_pos hused) hused.ne'
      (or_shiftLeft_mod_two_pow (revBits_lt _ _) h)
  · intro idx _ hnone
    refine builtTable_entry_of_unmatched fun sym n hsym hn => ?_
    have hlensym : lens.getD sym 0 = n := by rw [List.getD_eq_getElem?_getD, hsym, Option.getD_some]
    subst hlensym
    exact hnone sym (Nat.pos_of_ne_zero hn)

section
variable {s : State} {a : Alphabet}

/-! ### `HDBUILD` -/

theorem finish_setDtbl_begin (a : Alphabet) (t : DecTable) (s : State) :
    (s.begin.setDtbl a t).finish = { s.setDtbl a t with status := .done, err := none } := by
  cases a <;> rfl

theorem execHdbuild_of_large (h : 2 < s.arg0.toNat) :
    execHdbuild s = .next (s.flagError .invalidConfig) :=
  command_of_invalidConfig (by rw [alphabetOf_begin_of_large h])

theorem execHdbuild_of_accepted (h : alphabetOf s.arg0 = some a)
    (hacc : codeAccepted a (s.lens a) = true) :
    execHdbuild s = .next (s.begin.setDtbl a (builtTable a (s.lens a))).finish := by
  have hbegin : alphabetOf s.begin.arg0 = some a := h
  rw [execHdbuild, command_of_ok (by rw [hbegin]; exact if_pos hacc)]
  rfl

theorem execHdbuild_of_not_accepted (h : alphabetOf s.arg0 = some a)
    (hacc : ¬codeAccepted a (s.lens a) = true) :
    execHdbuild s = .next (s.begin.raise { lens := some a } .invalidHuffmanCode) := by
  have hbegin : alphabetOf s.begin.arg0 = some a := h
  rw [execHdbuild, h]
  exact command_of_error (by rw [hbegin]; exact if_neg hacc)

/-! ### `HDSYM` -/

theorem execHdsym_of_large (h : 2 < s.arg0.toNat) :
    execHdsym s = .next (s.flagError .invalidConfig) :=
  command_of_invalidConfig (by rw [alphabetOf_begin_of_large h])

/-- An error of `DecodeSym` leaves `RPOS` as it was (R196). -/
theorem execHdsym_of_raises (h : alphabetOf s.arg0 = some a) {e : HwError}
    (he : e ≠ .invalidConfig)
    (hsym : decodeSym a (s.dtbl a) s.streamBit s.remaining = .error (.raises e)) :
    ∃ t, execHdsym s = .next t ∧ keptAfterError e s t ∧ t.rpos = s.rpos := by
  have hbegin : alphabetOf s.begin.arg0 = some a := h
  have hsym' : decodeSym a (s.begin.dtbl a) s.begin.streamBit s.begin.remaining =
      .error (.raises e) := by cases a <;> exact hsym
  exact ⟨_, command_of_error (by simp only [hbegin, hsym']), keptAfterError_begin_raise _ s he,
    raise_rpos_of_keep rfl s.begin _⟩

theorem execHdsym_of_symbol (h : alphabetOf s.arg0 = some a) {e : Nat × Nat}
    (hsym : decodeSym a (s.dtbl a) s.streamBit s.remaining = .ok e) :
    execHdsym s = .next { s with
      status := .done, err := none, rpos := s.rpos + e.2
      res0 := BitVec.ofNat 32 e.1, res1 := BitVec.ofNat 32 e.2 } := by
  have hbegin : alphabetOf s.begin.arg0 = some a := h
  have hsym' : decodeSym a (s.begin.dtbl a) s.begin.streamBit s.begin.remaining = .ok e := by
    cases a <;> exact hsym
  rw [execHdsym, command_of_ok (by simp only [hbegin, hsym']; rfl)]
  rfl

end

/-- Settles O29: R192's test decides between the command's two outcomes; the error keeps `LEN_a`. -/
theorem hdbuildResult : Obligations.HdbuildResult := by
  refine fun s => ⟨execHdbuild_of_large, fun a h => ?_⟩
  intro lens k used
  split_ifs with hacc
  · exact (execHdbuild_of_accepted h (codeAccepted_iff.2 hacc)).trans
      (congrArg _ (finish_setDtbl_begin a (builtTable a (s.lens a)) s))
  · exact ⟨_, execHdbuild_of_not_accepted h (mt codeAccepted_iff.1 hacc),
      keptAfterError_begin_raise _ s (by decide), raise_lens_of_keep rfl s.begin _⟩

/-- Settles O31: the three outcomes of `DecodeSym`, told apart by the entry's length. -/
theorem hdsymResult : Obligations.HdsymResult := by
  refine fun s => ⟨execHdsym_of_large, fun a h => ?_⟩
  intro e
  rcases decodeSym_cases a (s.dtbl a) s.streamBit s.remaining with
    ⟨hunmatched, hsym⟩ | ⟨hmatched, hshort, hsym⟩ | ⟨hmatched, hle, hsym⟩
  · exact ⟨fun _ => execHdsym_of_raises h (by decide) hsym,
      fun hpos => absurd hunmatched hpos.ne', fun hpos => absurd hunmatched hpos.ne'⟩
  · exact ⟨fun hzero => absurd hzero hmatched.ne',
      fun _ _ => execHdsym_of_raises h (by decide) hsym,
      fun _ hle => absurd hle (Nat.not_le.2 hshort)⟩
  · exact ⟨fun hzero => absurd hzero hmatched.ne',
      fun _ hshort => absurd hle (Nat.not_le.2 hshort), fun _ _ => execHdsym_of_symbol h hsym⟩

end Sys2Proof.Machine

/-! ## What `FindMatch` answers (R213 to R216)

The search walks a list of pairs; the lemmas below replace it by the positions it examines, and the loop by
what it computes: the longest match among them. -/

namespace Sys2Proof.Machine

/-! ### `MatchLen` (R215) -/

/-- `MatchLen` counts the equal leading bytes, and stops early only at a difference (R215). -/
theorem matchLen_spec {n : Nat} {as bs : List Byte} (ha : n ≤ as.length) (hb : n ≤ bs.length) :
    matchLen n as bs ≤ n ∧ (∀ j < matchLen n as bs, as.getD j 0 = bs.getD j 0) ∧
      (matchLen n as bs < n → as.getD (matchLen n as bs) 0 ≠ bs.getD (matchLen n as bs) 0) := by
  induction n generalizing as bs with
  | zero => simp [matchLen]
  | succ n ih =>
    match as, bs with
    | a :: as, b :: bs =>
      by_cases hab : a = b
      · obtain ⟨hle, heq, hstop⟩ := ih (Nat.le_of_succ_le_succ ha) (Nat.le_of_succ_le_succ hb)
        simp only [matchLen, if_pos hab]
        refine ⟨by omega, fun j hj => ?_, fun hlt => hstop (by omega)⟩
        cases j with
        | zero => exact hab
        | succ j => exact heq j (by omega)
      · simp [matchLen, hab]

theorem getD_drop (l : List Byte) (c j : Nat) : (l.drop c).getD j 0 = l.getD (c + j) 0 := by
  simp [List.getD_eq_getElem?_getD]

theorem isMatchLen_iff {inp : List Byte} {c pos maxlen k : Nat} :
    isMatchLen inp c pos maxlen k = true ↔ k ≤ maxlen ∧
      (∀ j < k, inp.getD (c + j) 0 = inp.getD (pos + j) 0) ∧
      (k < maxlen → inp.getD (c + k) 0 ≠ inp.getD (pos + k) 0) := by
  simp only [isMatchLen, decide_eq_true_eq]

/-- `MatchLen` of the model is that of R215, where the bytes compared exist. -/
theorem isMatchLen_matchLen {inp : List Byte} {c pos maxlen : Nat} (hc : c ≤ pos)
    (h : pos + maxlen ≤ inp.length) :
    isMatchLen inp c pos maxlen (matchLen maxlen (inp.drop c) (inp.drop pos)) = true := by
  have hspec := matchLen_spec (n := maxlen) (as := inp.drop c) (bs := inp.drop pos)
    (by simp; omega) (by simp; omega)
  simpa only [isMatchLen_iff, getD_drop] using hspec

/-- R215 fixes the length. -/
theorem isMatchLen_unique {inp : List Byte} {c pos maxlen k l : Nat}
    (hk : isMatchLen inp c pos maxlen k = true) (hl : isMatchLen inp c pos maxlen l = true) :
    k = l := by
  obtain ⟨hkle, hkeq, hkstop⟩ := isMatchLen_iff.1 hk
  obtain ⟨hlle, hleq, hlstop⟩ := isMatchLen_iff.1 hl
  rcases Nat.lt_trichotomy k l with hlt | heq | hgt
  · exact absurd (hleq k hlt) (hkstop (by omega))
  · exact heq
  · exact absurd (hkeq l hgt) (hlstop (by omega))

/-! ### The positions examined (R214) -/

theorem isCandidate_iff {cfg : MatchConfig} {inp : List Byte} {pos c : Nat} :
    isCandidate cfg inp pos c = true ↔ c < pos ∧ pos - c ≤ cfg.window ∧
      (cfg.strategy = 3 → c + 1 = pos) ∧ inp.getD c 0 = inp.getD pos 0 ∧
      inp.getD (c + 1) 0 = inp.getD (pos + 1) 0 ∧ inp.getD (c + 2) 0 = inp.getD (pos + 2) 0 := by
  simp only [isCandidate, decide_eq_true_eq]

/-- The candidates of R214, nearest first. -/
def candidatePositions (cfg : MatchConfig) (inp : List Byte) (pos : Nat) : List Nat :=
  ((List.range pos).filter fun c => isCandidate cfg inp pos c).reverse

/-- The candidates the search looks at: under `rle` there is but one, else the first `CHAIN[level]`. -/
def examinedPositions (cfg : MatchConfig) (inp : List Byte) (pos : Nat) : List Nat :=
  (candidatePositions cfg inp pos).take (if cfg.strategy = 3 then 1 else chainDepth cfg.level)

theorem mem_candidatePositions {cfg : MatchConfig} {inp : List Byte} {pos c : Nat} :
    c ∈ candidatePositions cfg inp pos ↔ isCandidate cfg inp pos c = true := by
  simp only [candidatePositions, List.mem_reverse, List.mem_filter, List.mem_range,
    and_iff_right_iff_imp]
  exact fun h => (isCandidate_iff.1 h).1

theorem pairwise_candidatePositions (cfg : MatchConfig) (inp : List Byte) (pos : Nat) :
    (candidatePositions cfg inp pos).Pairwise (· > ·) :=
  List.pairwise_reverse.2 (List.pairwise_lt_range.filter _)

theorem isCandidate_of_mem_examinedPositions {cfg : MatchConfig} {inp : List Byte} {pos c : Nat}
    (h : c ∈ examinedPositions cfg inp pos) : isCandidate cfg inp pos c = true :=
  mem_candidatePositions.1 (List.mem_of_mem_take h)

theorem lt_of_mem_examinedPositions {cfg : MatchConfig} {inp : List Byte} {pos c : Nat}
    (h : c ∈ examinedPositions cfg inp pos) : c < pos :=
  (isCandidate_iff.1 (isCandidate_of_mem_examinedPositions h)).1

theorem pairwise_examinedPositions (cfg : MatchConfig) (inp : List Byte) (pos : Nat) :
    (examinedPositions cfg inp pos).Pairwise (· > ·) :=
  (pairwise_candidatePositions cfg inp pos).sublist (List.take_sublist _ _)

/-- A member of a falling list is among the first `k` when fewer than `k` members are greater. -/
theorem mem_take_iff_of_pairwise_gt {l : List Nat} (hl : l.Pairwise (· > ·)) {k c : Nat} :
    c ∈ l.take k ↔ c ∈ l ∧ (l.filter fun d => c < d).length < k := by
  induction l generalizing k with
  | nil => simp
  | cons a l ih =>
    obtain ⟨ha, hl⟩ := List.pairwise_cons.1 hl
    cases k with
    | zero => simp
    | succ k =>
      rw [List.take_succ_cons, List.mem_cons, List.mem_cons, ih hl]
      by_cases hca : c = a
      · subst hca
        have hnone : (l.filter fun d => c < d) = [] :=
          List.filter_eq_nil_iff.2 fun d hd => by simpa using (ha d hd).le
        simp [hnone]
      · by_cases hc : c ∈ l
        · simp [hca, hc, ha c hc]
        · simp [hca, hc]

theorem chainDepth_eq {level : Nat} (h : 1 ≤ level) :
    chainDepth level = [4, 8, 16, 32, 64, 128, 256, 1024, 4096].getD (level - 1) 0 := by
  obtain ⟨n, rfl⟩ := Nat.exists_eq_add_of_le' h
  rfl

theorem chainDepth_pos {level : Nat} (h₁ : 1 ≤ level) (h₉ : level ≤ 9) : 0 < chainDepth level := by
  revert level
  decide

/-- A higher level looks further (R214). -/
theorem chainDepth_mono {k l : Nat} (hkl : k ≤ l) (hl : l ≤ 9) : chainDepth k ≤ chainDepth l := by
  have table : ∀ l ≤ 9, ∀ k ≤ l, chainDepth k ≤ chainDepth l := by decide
  exact table l hl k hkl

/-- The positions the model examines are those of R214. -/
theorem mem_examinedPositions {cfg : MatchConfig} {inp : List Byte} {pos c : Nat}
    (h₁ : 1 ≤ cfg.level) (h₉ : cfg.level ≤ 9) :
    c ∈ examinedPositions cfg inp pos ↔ isExamined cfg inp pos c = true := by
  rw [examinedPositions, mem_take_iff_of_pairwise_gt (pairwise_candidatePositions cfg inp pos),
    mem_candidatePositions, isExamined, Bool.and_eq_true, decide_eq_true_eq, ← chainDepth_eq h₁]
  refine and_congr_right fun hc => ?_
  have hcount : ((candidatePositions cfg inp pos).filter fun d => c < d).length =
      ((List.range pos).filter fun d => c < d && isCandidate cfg inp pos d).length := by
    rw [candidatePositions, List.filter_reverse, List.length_reverse, List.filter_filter]
  rw [hcount]
  split_ifs with hrle
  · have hnone : ((List.range pos).filter fun d => c < d && isCandidate cfg inp pos d) = [] := by
      refine List.filter_eq_nil_iff.2 fun d _ hd => ?_
      rw [Bool.and_eq_true, decide_eq_true_eq] at hd
      have hcpos := (isCandidate_iff.1 hc).2.2.1 hrle
      have hdpos := (isCandidate_iff.1 hd.2).2.2.1 hrle
      omega
    simp [hnone, chainDepth_pos h₁ h₉]
  · rfl

/-- A higher level examines no fewer positions (R216). -/
theorem examinedPositions_subset {cfg : MatchConfig} {l : Nat} (inp : List Byte) (pos : Nat)
    (hl : cfg.level ≤ l) (h₉ : l ≤ 9) :
    examinedPositions cfg inp pos ⊆ examinedPositions { cfg with level := l } inp pos := by
  refine (List.take_sublist_take_left ?_).subset
  dsimp only
  split_ifs
  · exact le_rfl
  · exact chainDepth_mono hl h₉

/-! ### The model's list of candidates (R214) -/

theorem threeEqual_drop {inp : List Byte} {c pos : Nat} (hc : c ≤ pos) (h : pos + 3 ≤ inp.length) :
    threeEqual (inp.drop c) (inp.drop pos) = true ↔ inp.getD c 0 = inp.getD pos 0 ∧
      inp.getD (c + 1) 0 = inp.getD (pos + 1) 0 ∧ inp.getD (c + 2) 0 = inp.getD (pos + 2) 0 := by
  have three : ∀ i, i + 3 ≤ inp.length →
      inp.drop i = inp.getD i 0 :: inp.getD (i + 1) 0 :: inp.getD (i + 2) 0 :: inp.drop (i + 3) := by
    intro i hi
    rw [List.drop_eq_getElem_cons (i := i) (by omega), List.drop_eq_getElem_cons (i := i + 1) (by omega),
      List.drop_eq_getElem_cons (i := i + 2) (by omega), List.getD_eq_getElem,
      List.getD_eq_getElem, List.getD_eq_getElem]
  rw [three c (by omega), three pos h]
  simp [threeEqual, and_assoc]

theorem scanCandidates_eq (inp target : List Byte) (n c : Nat) (acc : List (Nat × List Byte)) :
    scanCandidates target n c (inp.drop c) acc =
      (((List.range' c n).filter fun d => threeEqual (inp.drop d) target).map
        fun d => (d, inp.drop d)).reverse ++ acc := by
  induction n generalizing c acc with
  | zero => rfl
  | succ n ih =>
    rw [scanCandidates, List.tail_drop, ih, List.range'_succ, List.filter_cons]
    split_ifs <;> simp

/-- Of the positions before `pos`, the candidates lie in the window (R214). -/
theorem filter_isCandidate_range {cfg : MatchConfig} {inp : List Byte} {pos : Nat}
    (h : pos + 3 ≤ inp.length) (hrle : cfg.strategy ≠ 3) :
    ((List.range pos).filter fun c => isCandidate cfg inp pos c) =
      (List.range' (pos - min pos cfg.window) (min pos cfg.window)).filter
        fun c => threeEqual (inp.drop c) (inp.drop pos) := by
  have hsplit : List.range pos = List.range' 0 (pos - min pos cfg.window) ++
      List.range' (pos - min pos cfg.window) (min pos cfg.window) := by
    have := List.range'_append_1 (s := 0) (m := pos - min pos cfg.window) (n := min pos cfg.window)
    rw [Nat.zero_add, Nat.sub_add_cancel (Nat.min_le_left ..)] at this
    rw [this, List.range_eq_range']
  have hfar : ((List.range' 0 (pos - min pos cfg.window)).filter
      fun c => isCandidate cfg inp pos c) = [] := by
    refine List.filter_eq_nil_iff.2 fun c hc hcand => ?_
    obtain ⟨-, hc⟩ := List.mem_range'_1.1 hc
    obtain ⟨hcpos, hwin, -⟩ := isCandidate_iff.1 hcand
    omega
  rw [hsplit, List.filter_append, hfar, List.nil_append]
  refine List.filter_congr fun c hc => ?_
  obtain ⟨hge, hlt⟩ := List.mem_range'_1.1 hc
  rw [Bool.eq_iff_iff, isCandidate_iff, threeEqual_drop (by omega) h]
  exact ⟨fun ⟨_, _, _, heq⟩ => heq,
    fun heq => ⟨by omega, by omega, fun hr => absurd hr hrle, heq⟩⟩

/-- Under `rle` the position before `pos` is the candidate, if any is (R214). -/
theorem candidatePositions_rle {cfg : MatchConfig} {inp : List Byte} {pos : Nat}
    (h : pos + 3 ≤ inp.length) (hrle : cfg.strategy = 3) :
    candidatePositions cfg inp pos =
      if 1 ≤ min pos cfg.window ∧ threeEqual (inp.drop (pos - 1)) (inp.drop pos) = true then [pos - 1]
      else [] := by
  cases pos with
  | zero => simp [candidatePositions]
  | succ p =>
    have hearlier : ((List.range p).filter fun c => isCandidate cfg inp (p + 1) c) = [] := by
      refine List.filter_eq_nil_iff.2 fun c hc hcand => ?_
      have := (isCandidate_iff.1 hcand).2.2.1 hrle
      have := List.mem_range.1 hc
      omega
    have hlast : isCandidate cfg inp (p + 1) p = true ↔
        1 ≤ min (p + 1) cfg.window ∧ threeEqual (inp.drop p) (inp.drop (p + 1)) = true := by
      rw [isCandidate_iff, threeEqual_drop (by omega) h]
      exact ⟨fun ⟨_, hwin, _, heq⟩ => ⟨by omega, heq⟩,
        fun ⟨hwin, heq⟩ => ⟨by omega, by omega, fun _ => rfl, heq⟩⟩
    simp only [candidatePositions, List.range_succ, List.filter_append, hearlier, List.nil_append,
      List.filter_cons, List.filter_nil, Nat.add_sub_cancel, ← hlast]
    split_ifs <;> rfl

/-- The model's candidates are the positions examined, each with the input from it (R214). -/
theorem candidates_eq {cfg : MatchConfig} {inp : List Byte} {pos : Nat} (h : pos + 3 ≤ inp.length) :
    candidates cfg inp pos (min pos cfg.window) =
      (examinedPositions cfg inp pos).map fun c => (c, inp.drop c) := by
  unfold candidates examinedPositions
  by_cases hrle : cfg.strategy = 3
  · simp only [if_pos hrle, candidatePositions_rle h hrle]
    split_ifs <;> rfl
  · simp only [if_neg hrle, candidatePositions, filter_isCandidate_range h hrle, scanCandidates_eq,
      List.append_nil, List.map_take, List.map_reverse]

/-! ### The longest match (R213) -/

/-- `m` is the longest match that starts at one of the positions `P`, of equally long ones the nearest
(R213). -/
def LongestAmong (inp : List Byte) (pos maxlen : Nat) (P : Nat → Prop) (m : Match) : Prop :=
  ∃ c, P c ∧ m.dist = pos - c ∧ isMatchLen inp c pos maxlen m.len = true ∧
    ∀ d k, P d → isMatchLen inp d pos maxlen k = true → k < m.len ∨ (k = m.len ∧ d ≤ c)

theorem LongestAmong.unique {inp : List Byte} {pos maxlen : Nat} {P : Nat → Prop} {m n : Match}
    (hm : LongestAmong inp pos maxlen P m) (hn : LongestAmong inp pos maxlen P n) : m = n := by
  obtain ⟨c, hc, hmdist, hmlen, hmbest⟩ := hm
  obtain ⟨d, hd, hndist, hnlen, hnbest⟩ := hn
  obtain ⟨mlen, mdist⟩ := m
  obtain ⟨nlen, ndist⟩ := n
  have hdc := hmbest d _ hd hnlen
  have hcd := hnbest c _ hc hmlen
  simp only at *
  rw [Match.mk.injEq]
  constructor <;> omega

section
variable {inp : List Byte} {pos maxlen : Nat}

/-- A strictly longer match replaces the best one (R213). -/
theorem bestMatch_cons_some (target : List Byte) (c : Nat) (suf : List Byte)
    (cs : List (Nat × List Byte)) (m : Match) :
    bestMatch target pos maxlen ((c, suf) :: cs) (some m) =
      bestMatch target pos maxlen cs (some (if m.len < matchLen maxlen suf target
        then ⟨matchLen maxlen suf target, pos - c⟩ else m)) := by
  rw [bestMatch, apply_ite some]
  simp only [decide_eq_true_eq]

/-- The loop of R213 after the positions `seen`, whose longest match it holds: the positions `cs` still to
come lie farther away, so the strict comparison keeps the nearest (R213). -/
theorem exists_bestMatch_some (hmax : pos + maxlen ≤ inp.length) {cs seen : List Nat} {m : Match}
    (hpos : ∀ c ∈ seen ++ cs, c ≤ pos) (hfall : (seen ++ cs).Pairwise (· > ·))
    (hm : LongestAmong inp pos maxlen (· ∈ seen) m) :
    ∃ n, bestMatch (inp.drop pos) pos maxlen (cs.map fun c => (c, inp.drop c)) (some m) = some n ∧
      LongestAmong inp pos maxlen (· ∈ seen ++ cs) n := by
  induction cs generalizing seen m with
  | nil => exact ⟨m, rfl, by simpa using hm⟩
  | cons c cs ih =>
    have hlen := isMatchLen_matchLen (hpos c (by simp)) hmax
    obtain ⟨e, he, hdist, hmlen, hbest⟩ := hm
    have hce : c < e := (List.pairwise_append.1 hfall).2.2 e he c (by simp)
    have hstep : LongestAmong inp pos maxlen (· ∈ seen ++ [c])
        (if m.len < matchLen maxlen (inp.drop c) (inp.drop pos)
          then ⟨matchLen maxlen (inp.drop c) (inp.drop pos), pos - c⟩ else m) := by
      have hseen : ∀ d k, d ∈ seen ++ [c] → isMatchLen inp d pos maxlen k = true →
          (d = c ∧ k = matchLen maxlen (inp.drop c) (inp.drop pos)) ∨
            k < m.len ∨ (k = m.len ∧ d ≤ e) := by
        intro d k hd hk
        rcases List.mem_append.1 hd with hd | hd
        · exact .inr (hbest d k hd hk)
        · obtain rfl := List.mem_singleton.1 hd
          exact .inl ⟨rfl, isMatchLen_unique hk hlen⟩
      split_ifs with hlt
      · refine ⟨c, by simp, rfl, hlen, fun d k hd hk => ?_⟩
        have := hseen d k hd hk
        simp only
        omega
      · refine ⟨e, by simp [he], hdist, hmlen, fun d k hd hk => ?_⟩
        have := hseen d k hd hk
        omega
    rw [List.map_cons, bestMatch_cons_some]
    simpa using ih (by simpa using hpos) (by simpa using hfall) hstep

/-- The loop of R213 finds the longest match among the positions, if there are any. -/
theorem exists_bestMatch (hmax : pos + maxlen ≤ inp.length) {cs : List Nat} (hne : cs ≠ [])
    (hpos : ∀ c ∈ cs, c ≤ pos) (hfall : cs.Pairwise (· > ·)) :
    ∃ n, bestMatch (inp.drop pos) pos maxlen (cs.map fun c => (c, inp.drop c)) none = some n ∧
      LongestAmong inp pos maxlen (· ∈ cs) n := by
  obtain ⟨c, cs, rfl⟩ := List.exists_cons_of_ne_nil hne
  have hlen := isMatchLen_matchLen (hpos c (by simp)) hmax
  refine exists_bestMatch_some hmax (seen := [c]) hpos hfall ⟨c, by simp, rfl, hlen, fun d k hd hk => ?_⟩
  obtain rfl := List.mem_singleton.1 hd
  exact .inr ⟨isMatchLen_unique hk hlen, le_rfl⟩

theorem bestMatch_eq_some_iff (hmax : pos + maxlen ≤ inp.length) {cs : List Nat}
    (hpos : ∀ c ∈ cs, c ≤ pos) (hfall : cs.Pairwise (· > ·)) {m : Match} :
    bestMatch (inp.drop pos) pos maxlen (cs.map fun c => (c, inp.drop c)) none = some m ↔
      LongestAmong inp pos maxlen (· ∈ cs) m := by
  by_cases hne : cs = []
  · subst hne
    simp [bestMatch, LongestAmong]
  · obtain ⟨n, hn, hlongest⟩ := exists_bestMatch hmax hne hpos hfall
    rw [hn, Option.some.injEq]
    exact ⟨fun h => h ▸ hlongest, hlongest.unique⟩

end

/-! ### `FindMatch` (R213) -/

/-- `minlen` of R213. -/
def MatchConfig.minLen (cfg : MatchConfig) : Nat := if cfg.strategy = 1 then 6 else 3

theorem three_le_minLen (cfg : MatchConfig) : 3 ≤ cfg.minLen := by
  unfold MatchConfig.minLen
  split_ifs <;> decide

section
variable {cfg : MatchConfig} {inp : List Byte} {pos endp : Nat}

/-- Without matching, or with fewer than three bytes left, there is no match (R213). -/
theorem findMatch_eq_none (h : cfg.strategy = 2 ∨ cfg.level = 0 ∨ endp < pos + 3) :
    findMatch cfg inp pos endp = none :=
  if_pos (by omega)

/-- Where it searches, `FindMatch` drops the best match if that is too short (R213). -/
theorem findMatch_eq_filter (hlevel : cfg.level ≠ 0) (hstrat : cfg.strategy ≠ 2)
    (hleft : pos + 3 ≤ endp) (hend : endp ≤ inp.length) :
    findMatch cfg inp pos endp = (bestMatch (inp.drop pos) pos (min 258 (endp - pos))
      ((examinedPositions cfg inp pos).map fun c => (c, inp.drop c)) none).filter
        fun m => cfg.minLen ≤ m.len := by
  have hsearch : ¬(cfg.level = 0 ∨ cfg.strategy = 2 ∨ min 258 (endp - pos) < 3) := by omega
  have hcands := candidates_eq (cfg := cfg) (inp := inp) (pos := pos) (by omega)
  simp only [findMatch, if_neg hsearch, hcands]
  cases bestMatch (inp.drop pos) pos (min 258 (endp - pos))
    ((examinedPositions cfg inp pos).map fun c => (c, inp.drop c)) none with
  | none => rfl
  | some m =>
    by_cases hshort : m.len < cfg.minLen
    · rw [Option.filter_some_neg (by simpa using hshort)]
      exact if_pos hshort
    · rw [Option.filter_some_pos (by simpa using hshort)]
      exact if_neg hshort

/-- Where it searches, `FindMatch` answers the longest match of the positions examined, unless that is too
short (R213). -/
theorem findMatch_eq_some_iff (hlevel : cfg.level ≠ 0) (hstrat : cfg.strategy ≠ 2)
    (hleft : pos + 3 ≤ endp) (hend : endp ≤ inp.length) {m : Match} :
    findMatch cfg inp pos endp = some m ↔ cfg.minLen ≤ m.len ∧
      LongestAmong inp pos (min 258 (endp - pos)) (· ∈ examinedPositions cfg inp pos) m := by
  have hmax : pos + min 258 (endp - pos) ≤ inp.length := by omega
  rw [findMatch_eq_filter hlevel hstrat hleft hend, Option.filter_eq_some_iff,
    bestMatch_eq_some_iff hmax (fun c hc => (lt_of_mem_examinedPositions hc).le)
      (pairwise_examinedPositions cfg inp pos), decide_eq_true_eq, and_comm]

/-- A position examined whose match is long enough makes `FindMatch` answer one no shorter. -/
theorem exists_findMatch (hlevel : cfg.level ≠ 0) (hstrat : cfg.strategy ≠ 2)
    (hleft : pos + 3 ≤ endp) (hend : endp ≤ inp.length) {c k : Nat}
    (hc : c ∈ examinedPositions cfg inp pos)
    (hk : isMatchLen inp c pos (min 258 (endp - pos)) k = true) (hmin : cfg.minLen ≤ k) :
    ∃ m, findMatch cfg inp pos endp = some m ∧ k ≤ m.len := by
  have hmax : pos + min 258 (endp - pos) ≤ inp.length := by omega
  obtain ⟨m, -, hm⟩ := exists_bestMatch hmax (List.ne_nil_of_mem hc)
    (fun c hc => (lt_of_mem_examinedPositions hc).le) (pairwise_examinedPositions cfg inp pos)
  have hkm : k ≤ m.len := by
    obtain ⟨e, -, -, -, hbest⟩ := hm
    have := hbest c k hc hk
    omega
  exact ⟨m, (findMatch_eq_some_iff hlevel hstrat hleft hend).2 ⟨hmin.trans hkm, hm⟩, hkm⟩

theorem findMatch_eq_none_iff (hlevel : cfg.level ≠ 0) (hstrat : cfg.strategy ≠ 2)
    (hleft : pos + 3 ≤ endp) (hend : endp ≤ inp.length) :
    findMatch cfg inp pos endp = none ↔ ∀ c k, c ∈ examinedPositions cfg inp pos →
      isMatchLen inp c pos (min 258 (endp - pos)) k = true → k < cfg.minLen := by
  constructor
  · intro hnone c k hc hk
    by_contra hmin
    obtain ⟨m, hm, -⟩ := exists_findMatch hlevel hstrat hleft hend hc hk (Nat.not_lt.1 hmin)
    rw [hnone] at hm
    cases hm
  · intro hshort
    rw [Option.eq_none_iff_forall_ne_some]
    intro m hm
    obtain ⟨hmin, c, hc, -, hlen, -⟩ := (findMatch_eq_some_iff hlevel hstrat hleft hend).1 hm
    exact absurd (hshort c m.len hc hlen) (Nat.not_lt.2 hmin)

/-! ### What follows for a match (R216) -/

/-- An answer comes from a search, and starts at a position examined (R213). -/
theorem findMatch_some (hend : endp ≤ inp.length) {m : Match}
    (h : findMatch cfg inp pos endp = some m) :
    (cfg.level ≠ 0 ∧ cfg.strategy ≠ 2 ∧ pos + 3 ≤ endp) ∧ cfg.minLen ≤ m.len ∧
      ∃ c ∈ examinedPositions cfg inp pos, m.dist = pos - c ∧
        isMatchLen inp c pos (min 258 (endp - pos)) m.len = true := by
  by_cases hno : cfg.strategy = 2 ∨ cfg.level = 0 ∨ endp < pos + 3
  · rw [findMatch_eq_none hno] at h
    cases h
  · have hsearch : cfg.level ≠ 0 ∧ cfg.strategy ≠ 2 ∧ pos + 3 ≤ endp := by omega
    obtain ⟨hlevel, hstrat, hleft⟩ := hsearch
    obtain ⟨hmin, c, hc, hdist, hlen, -⟩ := (findMatch_eq_some_iff hlevel hstrat hleft hend).1 h
    exact ⟨⟨hlevel, hstrat, hleft⟩, hmin, c, hc, hdist, hlen⟩

/-- The bounds of a match (R216). -/
theorem findMatch_bounds (hwin : cfg.window ≤ 32768) (hend : endp ≤ inp.length) {m : Match}
    (h : findMatch cfg inp pos endp = some m) :
    3 ≤ m.len ∧ m.len ≤ 258 ∧ 1 ≤ m.dist ∧ m.dist ≤ pos ∧ m.dist ≤ cfg.window ∧
      m.dist ≤ 32768 ∧ pos + m.len ≤ endp := by
  obtain ⟨⟨-, -, hleft⟩, hmin, c, hc, hdist, hlen⟩ := findMatch_some hend h
  obtain ⟨hcpos, hcwin, -⟩ := isCandidate_iff.1 (isCandidate_of_mem_examinedPositions hc)
  obtain ⟨hmax, -⟩ := isMatchLen_iff.1 hlen
  have := three_le_minLen cfg
  omega

/-- A match repeats the bytes its distance back (R216). -/
theorem findMatch_repeats (hend : endp ≤ inp.length) {m : Match}
    (h : findMatch cfg inp pos endp = some m) :
    ∀ j < m.len, inp.getD (pos - m.dist + j) 0 = inp.getD (pos + j) 0 := by
  obtain ⟨-, -, c, hc, hdist, hlen⟩ := findMatch_some hend h
  have hcpos := lt_of_mem_examinedPositions hc
  obtain ⟨-, heq, -⟩ := isMatchLen_iff.1 hlen
  have hback : pos - m.dist = c := by omega
  rwa [hback]

/-- A higher level finds a match no shorter (R216). -/
theorem exists_findMatch_of_level_le (hend : endp ≤ inp.length) {m : Match}
    (h : findMatch cfg inp pos endp = some m) {l : Nat} (hl : cfg.level ≤ l) (h₉ : l ≤ 9) :
    ∃ m', findMatch { cfg with level := l } inp pos endp = some m' ∧ m.len ≤ m'.len := by
  obtain ⟨⟨hlevel, hstrat, hleft⟩, hmin, c, hc, -, hlen⟩ := findMatch_some hend h
  have hlevel' : l ≠ 0 := by omega
  exact exists_findMatch (cfg := { cfg with level := l }) hlevel' hstrat hleft hend
    (examinedPositions_subset inp pos hl h₉ hc) hlen hmin

end

/-- Settles O33: the search is over the positions R214 lists, its loop finds the longest match among them,
and a higher level only adds positions. -/
theorem findMatchSound : Obligations.FindMatchSound := by
  intro cfg inp pos endp hwin hend
  refine ⟨fun h₁ h₉ hstrat hleft => ?_, findMatch_eq_none, fun m hm => ?_⟩
  · have hlevel : cfg.level ≠ 0 := by omega
    intro maxlen minlen
    simp only [← mem_examinedPositions h₁ h₉]
    exact ⟨fun m => findMatch_eq_some_iff hlevel hstrat hleft hend,
      findMatch_eq_none_iff hlevel hstrat hleft hend⟩
  · obtain ⟨-, hmin, c, hc, hdist, -⟩ := findMatch_some hend hm
    obtain ⟨-, -, hrle, -⟩ := isCandidate_iff.1 (isCandidate_of_mem_examinedPositions hc)
    refine ⟨findMatch_bounds hwin hend hm, findMatch_repeats hend hm, fun h => ?_, fun h => ?_,
      fun l => exists_findMatch_of_level_le hend hm⟩
    · have := hrle h
      omega
    · rwa [MatchConfig.minLen, if_pos h] at hmin

end Sys2Proof.Machine

/-! ## The tokens of a chunk (R221, R223) -/

namespace Sys2Proof.Machine

/-! ### Expanding tokens (R74, R223) -/

/-- A literal of the next byte extends a start of the input by that byte. -/
theorem expandToken_lit {inp : List Byte} {pos : Nat} (h : pos < inp.length) :
    expandToken (inp.take pos) (.lit (inp.getD pos 0)) = inp.take (pos + 1) := by
  rw [expandToken, List.take_succ_eq_append_getElem h, List.getD_eq_getElem _ _ h]

/-- A match of bytes that do repeat extends a start of the input by its length, byte by byte (R74). -/
theorem expandToken_copy {inp : List Byte} {pos len dist : Nat} (h : pos + len ≤ inp.length)
    (hpos : 1 ≤ dist) (hdist : dist ≤ pos)
    (heq : ∀ j < len, inp.getD (pos - dist + j) 0 = inp.getD (pos + j) 0) :
    expandToken (inp.take pos) (.copy len dist) = inp.take (pos + len) := by
  rw [expandToken]
  induction len with
  | zero => rfl
  | succ len ih =>
    have hsource : (inp.take (pos + len)).getD (pos + len - dist) 0 = inp.getD (pos + len) 0 := by
      rw [← heq len (Nat.lt_succ_self len), List.getD_eq_getElem?_getD, List.getElem?_take_of_lt (by omega),
        ← List.getD_eq_getElem?_getD, Nat.sub_add_comm hdist]
    rw [List.range_succ, List.foldl_append, ih (by omega) fun j hj => heq j (by omega), List.foldl_cons,
      List.foldl_nil, List.length_take_of_le (by omega), hsource]
    exact expandToken_lit (by omega)

/-! ### The loop of `Tokenize` (R221) -/

section
variable {cfg : MatchConfig} {inp : List Byte} {endp fuel pos : Nat}

theorem tokenizeFrom_of_le (h : endp ≤ pos) : tokenizeFrom cfg inp endp fuel pos = [] := by
  cases fuel with
  | zero => rfl
  | succ fuel => exact if_pos h

/-- A round emits a literal or the match at its position, and goes on behind it (R221). -/
theorem tokenizeFrom_succ (h : pos < endp) :
    tokenizeFrom cfg inp endp (fuel + 1) pos =
        .lit (inp.getD pos 0) :: tokenizeFrom cfg inp endp fuel (pos + 1) ∨
      ∃ m, findMatch cfg inp pos endp = some m ∧ tokenizeFrom cfg inp endp (fuel + 1) pos =
        .copy m.len m.dist :: tokenizeFrom cfg inp endp fuel (pos + m.len) := by
  rw [tokenizeFrom, if_neg (Nat.not_le.2 h)]
  cases hm : findMatch cfg inp pos endp with
  | none => exact .inl rfl
  | some m =>
    simp only
    split_ifs
    · exact .inl rfl
    · exact .inr ⟨m, rfl, rfl⟩

/-- The tokens from a position on, after the input before it, expand to the input up to the end
(R223(a)). -/
theorem expandTokens_tokenizeFrom (hwin : cfg.window ≤ 32768) (hend : endp ≤ inp.length)
    (hpos : pos ≤ endp) (hfuel : endp - pos ≤ fuel) :
    expandTokens (inp.take pos) (tokenizeFrom cfg inp endp fuel pos) = inp.take endp := by
  induction fuel generalizing pos with
  | zero =>
    obtain rfl : pos = endp := by omega
    rfl
  | succ fuel ih =>
    rcases hpos.eq_or_lt with rfl | hlt
    · rw [tokenizeFrom_of_le le_rfl]
      rfl
    · rcases tokenizeFrom_succ (cfg := cfg) (inp := inp) (fuel := fuel) hlt with hlit | ⟨m, hm, hcopy⟩
      · rw [hlit, expandTokens, List.foldl_cons, expandToken_lit (by omega)]
        exact ih hlt (by omega)
      · obtain ⟨hmin, -, hdist, hback, -, -, hfits⟩ := findMatch_bounds hwin hend hm
        rw [hcopy, expandTokens, List.foldl_cons,
          expandToken_copy (by omega) hdist hback (findMatch_repeats hend hm)]
        exact ih hfits (by omega)

/-- Every match among the tokens is one `FindMatch` answers (R221). -/
theorem findMatch_of_copy_mem_tokenizeFrom {len dist : Nat}
    (h : Token.copy len dist ∈ tokenizeFrom cfg inp endp fuel pos) :
    ∃ p, findMatch cfg inp p endp = some ⟨len, dist⟩ := by
  induction fuel generalizing pos with
  | zero => cases h
  | succ fuel ih =>
    rcases Nat.lt_or_ge pos endp with hlt | hge
    · rcases tokenizeFrom_succ (cfg := cfg) (inp := inp) (fuel := fuel) hlt with hlit | ⟨m, hm, hcopy⟩
      · rw [hlit] at h
        exact ih ((List.mem_cons.1 h).resolve_left nofun)
      · rw [hcopy] at h
        rcases List.mem_cons.1 h with heq | h
        · cases heq
          exact ⟨pos, hm⟩
        · exact ih h
    · rw [tokenizeFrom_of_le hge] at h
      cases h

end

/-- The bounds of the matches among a chunk's tokens (R223(b)). -/
theorem copy_mem_tokenizeChunk_bounds {cfg : MatchConfig} {inp : List Byte} {start endp : Nat}
    (hwin : cfg.window ≤ 32768) (hend : endp ≤ inp.length) {len dist : Nat}
    (h : Token.copy len dist ∈ tokenizeChunk cfg inp start endp) :
    3 ≤ len ∧ len ≤ 258 ∧ 1 ≤ dist ∧ dist ≤ cfg.window ∧ dist ≤ 32768 := by
  obtain ⟨p, hp⟩ := findMatch_of_copy_mem_tokenizeFrom h
  obtain ⟨hmin, hmax, hpos, -, hdist, hfar, -⟩ := findMatch_bounds hwin hend hp
  exact ⟨hmin, hmax, hpos, hdist, hfar⟩

/-- Settles O35: each round of the loop extends the bytes expanded so far by the next bytes of the input, and
its matches are those of `FindMatch`. -/
theorem tokenizeReproduces : Obligations.TokenizeReproduces := by
  intro cfg inp start endp hwin hstart hend
  refine ⟨expandTokens_tokenizeFrom hwin hend hstart le_rfl, length_tokenizeChunk_le cfg inp start endp,
    fun len dist => copy_mem_tokenizeChunk_bounds hwin hend, fun hno x hx => ?_⟩
  cases x with
  | lit b => exact ⟨b, rfl⟩
  | copy len dist =>
    obtain ⟨p, hp⟩ := findMatch_of_copy_mem_tokenizeFrom hx
    rw [findMatch_eq_none (by omega)] at hp
    cases hp

end Sys2Proof.Machine

/-! ## `MFIND` and `TOKENIZE` as commands (R35, R212, R220) -/

namespace Sys2Proof.Machine

/-! ### `MFIND` -/

section
variable {s : State}

theorem execMfind_refused
    (h : s.configOk = false ∨ s.arg1.toNat < s.arg0.toNat ∨ s.ilen < s.arg1.toNat) :
    execMfind s = .next (s.flagError .invalidConfig) := by
  have hbad : ¬(s.configOk = true ∧ s.arg0.toNat ≤ s.arg1.toNat ∧ s.arg1.toNat ≤ s.ilen) := by
    rintro ⟨hcfg, harg, hlen⟩
    rw [hcfg] at h
    rcases h with h | h | h
    · cases h
    · omega
    · omega
  exact command_of_invalidConfig (if_neg hbad)

/-- The two results of an accepted `MFIND` (R212). -/
theorem execMfind_accepted
    (h : s.configOk = true ∧ s.arg0.toNat ≤ s.arg1.toNat ∧ s.arg1.toNat ≤ s.ilen)
    (found : Option Match)
    (hm : findMatch s.matchConfig s.inputBytes s.arg0.toNat s.arg1.toNat = found) :
    execMfind s = .next { s with
      status := .done, err := none
      res0 := BitVec.ofNat 32 ((found.map Match.len).getD 0)
      res1 := BitVec.ofNat 32 ((found.map Match.dist).getD 0) } := by
  have hfound : findMatch s.begin.matchConfig s.begin.inputBytes s.begin.arg0.toNat s.begin.arg1.toNat =
      found := hm
  refine (command_of_ok (u := { s.begin with
      res0 := BitVec.ofNat 32 ((found.map Match.len).getD 0)
      res1 := BitVec.ofNat 32 ((found.map Match.dist).getD 0) }) ?_).trans rfl
  refine (if_pos h).trans ?_
  rw [hfound]
  cases found <;> rfl

end

/-- Settles O32: the command's two cases, the second with `FindMatch`'s two answers. -/
theorem mfindResult : Obligations.MfindResult := by
  refine fun s => ⟨execMfind_refused, fun hcfg harg hlen => ⟨fun hnone => ?_, fun m hm => ?_⟩⟩
  · exact execMfind_accepted ⟨hcfg, harg, hlen⟩ none hnone
  · exact execMfind_accepted ⟨hcfg, harg, hlen⟩ (some m) hm

/-! ### The entries of `TOK` (R35) -/

theorem toNat_extractLsb' {w : Nat} (v : BitVec w) (start len : Nat) :
    (v.extractLsb' start len).toNat = v.toNat / 2 ^ start % 2 ^ len := by
  rw [BitVec.extractLsb'_toNat, Nat.shiftRight_eq_div_pow]

theorem tokenFields_lit (b : Byte) : tokenFields (tokenWord (.lit b)) (.lit b) := by
  have hb := b.isLt
  have hword : (tokenWord (.lit b)).toNat = b.toNat :=
    Nat.mod_eq_of_lt (by omega)
  refine ⟨?_, BitVec.eq_of_toNat_eq ?_, BitVec.eq_of_toNat_eq ?_⟩
  · rw [BitVec.getLsbD, hword, Nat.testBit_eq_decide_div_mod_eq, decide_eq_false_iff_not]
    omega
  · rw [toNat_extractLsb', hword]
    omega
  · rw [toNat_extractLsb', hword]
    change _ = 0
    omega

/-- The length and the distance of a match have room in their fields (R35). -/
theorem tokenFields_copy {len dist : Nat} (hlen : len < 512) (hdist : dist < 65536) :
    tokenFields (tokenWord (.copy len dist)) (.copy len dist) := by
  have hword : (tokenWord (.copy len dist)).toNat = 2147483648 + len * 65536 + dist :=
    Nat.mod_eq_of_lt (by omega)
  refine ⟨?_, ?_, ?_, BitVec.eq_of_toNat_eq ?_⟩
  · rw [BitVec.getLsbD, hword, Nat.testBit_eq_decide_div_mod_eq, decide_eq_true_eq]
    omega
  · rw [toNat_extractLsb', hword]
    omega
  · rw [toNat_extractLsb', hword]
    omega
  · rw [toNat_extractLsb', hword]
    change _ = 0
    omega

theorem read_setTokens (ts : List Token) (s : State) {i : Nat} (h : i < ts.length) :
    (s.setTokens ts).tok.read 12 i = tokenWord ts[i] := by
  rw [State.setTokens_tok, Memory.read_writeRun_mem _ 0 _ 12 i (Nat.zero_le i) (by simpa using h)]
  simp

theorem read_setTokens_of_length_le (ts : List Token) (s : State) {i : Nat} (h : ts.length ≤ i) :
    (s.setTokens ts).tok.read 12 i = s.tok.read 12 i := by
  rw [State.setTokens_tok, Memory.read_writeRun_of_outside _ 0 _ 12 i (by simp; omega)]

/-! ### `TOKENIZE` -/

section
variable {s : State}

/-- A legal configuration's window is at most 32768 bytes (R24, R211). -/
theorem window_le_of_configOk (h : s.configOk = true) : s.window ≤ 32768 := by
  obtain ⟨-, ⟨-, hbits⟩, -⟩ := (configOk_iff s).1 h
  exact Nat.pow_le_pow_right (n := 2) (by decide) hbits

/-- The tokens of a chunk of `IBUF` fit the format of `TOK` (R35, R223(b)). -/
theorem tokenFields_of_mem_tokenizeChunk (hcfg : s.configOk = true) {start endp : Nat}
    (hend : endp ≤ s.ilen) {t : Token}
    (h : t ∈ tokenizeChunk s.matchConfig s.inputBytes start endp) : tokenFields (tokenWord t) t := by
  cases t with
  | lit b => exact tokenFields_lit b
  | copy len dist =>
    have hinput : endp ≤ s.inputBytes.length := by rwa [State.inputBytes, Memory.length_readRun]
    obtain ⟨-, hlen, -, -, hdist⟩ :=
      copy_mem_tokenizeChunk_bounds (window_le_of_configOk hcfg) hinput h
    exact tokenFields_copy (by omega) (by omega)

theorem execTokenize_refused (h : s.configOk = false ∨ chunkRangeOk s = false) :
    execTokenize s = .next (s.flagError .invalidConfig) := by
  have hbad : ¬(s.configOk = true ∧ chunkRangeOk s = true) := by
    rintro ⟨hcfg, hrange⟩
    simp [hcfg, hrange] at h
  exact command_of_invalidConfig (if_neg hbad)

theorem execTokenize_accepted (h : s.configOk = true ∧ chunkRangeOk s = true) :
    execTokenize s = .next (s.begin.setTokens
      (tokenizeChunk s.matchConfig s.inputBytes s.arg0.toNat s.arg1.toNat)).finish :=
  command_of_ok (if_pos h)

end

/-- Settles O34: the command's two cases; the fields have room for every match of `FindMatch`. -/
theorem tokenizeResult : Obligations.TokenizeResult := by
  refine fun s => ⟨execTokenize_refused, fun hcfg harg hend hchunk => ?_⟩
  have hrange : chunkRangeOk s = true := (chunkRangeOk_iff s).2 ⟨harg, hend, hchunk⟩
  intro ts
  refine ⟨_, execTokenize_accepted ⟨hcfg, hrange⟩, rfl, fun i hi => ?_, fun i hi => ?_⟩
  · have hread : (s.begin.setTokens ts).finish.tok.read 12 i = tokenWord ts[i] :=
      read_setTokens ts s.begin hi
    refine ⟨hread, ?_⟩
    rw [hread]
    exact tokenFields_of_mem_tokenizeChunk hcfg hend (List.getElem_mem hi)
  · exact read_setTokens_of_length_le ts s.begin hi

end Sys2Proof.Machine

/-! ## The block encoder's forms and sizes (R241 to R255) -/

namespace Sys2Proof.Machine

/-! ### The form of least size (R241) -/

/-- The form chosen is one of those offered, none is smaller, and one of a lower type is larger. -/
theorem leastForm_spec {f : BlockForm} {gs : List BlockForm}
    (h : (f :: gs).Pairwise fun g k => g.btype < k.btype) :
    leastForm f gs ∈ f :: gs ∧ ∀ g ∈ f :: gs, (leastForm f gs).size ≤ g.size ∧
      (g.btype < (leastForm f gs).btype → (leastForm f gs).size < g.size) := by
  induction gs generalizing f with
  | nil =>
    refine ⟨List.mem_singleton_self f, fun g hg => ?_⟩
    obtain rfl := List.mem_singleton.1 hg
    exact ⟨le_rfl, fun hlt => absurd hlt (Nat.lt_irrefl _)⟩
  | cons g gs ih =>
    obtain ⟨hf, hgs⟩ := List.pairwise_cons.1 h
    unfold leastForm
    split_ifs with hlt
    · obtain ⟨hmem, hleast⟩ := ih hgs
      obtain ⟨hg, -⟩ := hleast g List.mem_cons_self
      refine ⟨List.mem_cons_of_mem _ hmem, fun k hk => ?_⟩
      rcases List.mem_cons.1 hk with rfl | hk
      · exact ⟨by omega, fun _ => by omega⟩
      · exact hleast k hk
    · obtain ⟨hmem, hleast⟩ := ih (f := f)
        (List.pairwise_cons.2 ⟨fun k hk => hf k (List.mem_cons_of_mem _ hk), (List.pairwise_cons.1 hgs).2⟩)
      obtain ⟨hle, hfirst⟩ := hleast f List.mem_cons_self
      refine ⟨?_, fun k hk => ?_⟩
      · rcases List.mem_cons.1 hmem with heq | hmem
        · rw [heq]
          exact List.mem_cons_self
        · exact List.mem_cons_of_mem _ (List.mem_cons_of_mem _ hmem)
      · rcases List.mem_cons.1 hk with rfl | hk
        · exact ⟨hle, hfirst⟩
        rcases List.mem_cons.1 hk with rfl | hk
        · have hfk := hf k List.mem_cons_self
          exact ⟨by omega, fun hk => by have := hfirst (hfk.trans hk); omega⟩
        · exact hleast k (List.mem_cons_of_mem _ hk)

/-! ### The bits of a block and their number (R245, R249, R255) -/

@[simp] theorem length_symBits (codes lens : List Nat) (s : Nat) :
    (symBits codes lens s).length = lens.getD s 0 := length_bitsOf _ _

theorem length_tokenBits (lc ll dc dl : List Nat) (t : Token) :
    (tokenBits lc ll dc dl t).length = tokenSize ll dl t := by
  cases t <;> simp [tokenBits, tokenSize, Nat.add_assoc]

theorem length_tokensBits (ll dl : List Nat) (ts : List Token) :
    (tokensBits ll dl ts).length = tokensSize ll dl ts := by
  simp [tokensBits, tokensSize, List.length_flatMap, length_tokenBits]

theorem length_bytesBits (bytes : List Byte) :
    (bytes.flatMap fun b => bitsOf b.toNat 8).length = 8 * bytes.length := by
  simp [List.length_flatMap, Nat.mul_comm]

theorem length_storedBits (wpos : Nat) (bytes : List Byte) :
    (storedBits wpos bytes).length = storedPad wpos + 32 + 8 * bytes.length := by
  simp [storedBits]
  omega

theorem trimmedCount_le {lo : Nat} {l : List Nat} (h : lo ≤ l.length) :
    trimmedCount lo l ≤ l.length := Nat.max_le.2 ⟨h, Nat.sub_le _ _⟩

theorem nc_dynPlan_le (ts : List Token) : (dynPlan ts).nc ≤ clOrder.length := by
  have h := trimmedCount_le (lo := 4) (l := clOrder.map fun s => (dynPlan ts).cl.getD s 0) (by simp [clOrder])
  rwa [List.length_map] at h

theorem length_dynHeaderBits {p : DynPlan} (h : p.nc ≤ clOrder.length) :
    (dynHeaderBits p).length = dynHeaderSize p := by
  simp [dynHeaderBits, dynHeaderSize, List.length_flatMap, Nat.min_eq_left h, Nat.mul_comm]
  omega

/-- A block's type is the one asked for. -/
theorem btype_blockForm (wpos : Nat) (bytes : List Byte) (ts : List Token) {bt : Nat} (h : bt ≤ 2) :
    (blockForm wpos bytes ts bt).btype = bt := by
  unfold blockForm
  split_ifs with h0 h1
  · exact h0.symm
  · exact h1.symm
  · exact show 2 = bt by omega

/-- The size computed for a block is the number of its bits, the header's three included (R257(a)). -/
theorem size_blockForm (wpos : Nat) (bytes : List Byte) (ts : List Token) (bt : Nat) :
    (blockForm wpos bytes ts bt).size = 3 + (blockForm wpos bytes ts bt).body.length := by
  unfold blockForm
  split_ifs
  · simp [length_storedBits, Nat.add_assoc]
  · simp [length_tokensBits]
  · simp [length_tokensBits, length_dynHeaderBits (nc_dynPlan_le ts), Nat.add_assoc]

/-! ### `EncodeBlock` by its parts (R241, R242) -/

/-- The types a block may take (R241, R242). -/
def blockCandidates (sel : Nat) (s : State) : List Nat := if sel = 3 then candidateTypes s else [sel]

/-- Whether the chunk is tokenised: a type other than Stored is a candidate (R241). -/
def blockTokenised (sel : Nat) (s : State) : Bool :=
  (blockCandidates sel s).contains 1 || (blockCandidates sel s).contains 2

/-- The tokens a block is made of (R241). -/
def blockTokens (inp : List Byte) (start endp sel : Nat) (s : State) : List Token :=
  if blockTokenised sel s then tokenizeChunk s.matchConfig inp start endp else []

/-- The form a chunk takes as a block of a type (R241). -/
def chunkForm (inp : List Byte) (start endp sel : Nat) (s : State) : Nat → BlockForm :=
  blockForm s.wpos ((inp.drop start).take (endp - start)) (blockTokens inp start endp sel s)

/-- The state whose output the block is appended to: the chunk's tokens are in `TOK` (R241). -/
def withBlockTokens (inp : List Byte) (start endp sel : Nat) (s : State) : State :=
  if blockTokenised sel s then s.setTokens (blockTokens inp start endp sel s) else s

/-- The bits of a block, its header first (R101, R241). -/
def blockBits (final : Bool) (f : BlockForm) : List Bool := final :: bitsOf f.btype 2 ++ f.body

theorem length_blockBits (final : Bool) (f : BlockForm) :
    (blockBits final f).length = 3 + f.body.length := by
  simp [blockBits]
  omega

@[simp] theorem withBlockTokens_wpos (inp : List Byte) (start endp sel : Nat) (s : State) :
    (withBlockTokens inp start endp sel s).wpos = s.wpos := by
  unfold withBlockTokens
  split_ifs <;> rfl

theorem candidateTypes_cases (s : State) :
    candidateTypes s = [0] ∨ candidateTypes s = [1] ∨ candidateTypes s = [0, 1, 2] := by
  unfold candidateTypes
  split_ifs <;> simp

theorem blockCandidates_cases {sel : Nat} (h : sel ≤ 3) (s : State) :
    blockCandidates sel s = [0] ∨ blockCandidates sel s = [1] ∨ blockCandidates sel s = [2] ∨
      blockCandidates sel s = [0, 1, 2] := by
  unfold blockCandidates
  split_ifs
  · rcases candidateTypes_cases s with he | he | he <;> simp [he]
  · have : sel = 0 ∨ sel = 1 ∨ sel = 2 := by omega
    rcases this with rfl | rfl | rfl <;> simp

section
variable (inp : List Byte) (start endp : Nat) (final : Bool) {sel : Nat} (hsel : sel ≤ 3) (s : State)
include hsel

/-- `EncodeBlock` appends the form of least size of those its candidates have, and reports it (R241). -/
theorem encodeBlock_least :
    ∃ bt ∈ blockCandidates sel s, bt ≤ 2 ∧
      (∀ k ∈ blockCandidates sel s,
        (chunkForm inp start endp sel s bt).size ≤ (chunkForm inp start endp sel s k).size ∧
        (k < bt → (chunkForm inp start endp sel s bt).size < (chunkForm inp start endp sel s k).size)) ∧
      encodeBlock inp start endp final sel s =
        ⟨bt, (chunkForm inp start endp sel s bt).size,
          (withBlockTokens inp start endp sel s).appendBits
            (blockBits final (chunkForm inp start endp sel s bt))⟩ := by
  obtain ⟨c, cs, hc, hle, hsorted⟩ : ∃ c cs, blockCandidates sel s = c :: cs ∧
      (∀ k ∈ c :: cs, k ≤ 2) ∧ (c :: cs).Pairwise (· < ·) := by
    rcases blockCandidates_cases hsel s with he | he | he | he <;>
      exact ⟨_, _, he, by decide, by decide⟩
  have hbtype : ∀ k ∈ c :: cs, (chunkForm inp start endp sel s k).btype = k := fun k hk =>
    btype_blockForm _ _ _ (hle k hk)
  obtain ⟨hmem, hleast⟩ := leastForm_spec (f := chunkForm inp start endp sel s c)
    (gs := cs.map (chunkForm inp start endp sel s)) (by
      rw [← List.map_cons (f := chunkForm inp start endp sel s), List.pairwise_map]
      exact hsorted.imp_of_mem fun hk hl hlt => by rwa [hbtype _ hk, hbtype _ hl])
  rw [← List.map_cons (f := chunkForm inp start endp sel s)] at hmem hleast
  obtain ⟨bt, hbt, hform⟩ := List.mem_map.1 hmem
  rw [← hform] at hleast
  refine ⟨bt, hc ▸ hbt, hle bt hbt, fun k hk => ?_, ?_⟩
  · have hk' : k ∈ c :: cs := hc ▸ hk
    have := hleast _ (List.mem_map_of_mem hk')
    rwa [hbtype _ hbt, hbtype _ hk'] at this
  · have hdef : encodeBlock inp start endp final sel s =
        let f := leastForm (((blockCandidates sel s).map (chunkForm inp start endp sel s)).headD
            (chunkForm inp start endp sel s 0))
          ((blockCandidates sel s).map (chunkForm inp start endp sel s)).tail
        let u := (withBlockTokens inp start endp sel s).appendBits (blockBits final f)
        ⟨f.btype, u.wpos - s.wpos, u⟩ := rfl
    rw [hdef, hc, List.map_cons, List.headD_cons, List.tail_cons, ← hform]
    simp only
    rw [hbtype bt hbt, State.appendBits_wpos, withBlockTokens_wpos, Nat.add_sub_cancel_left,
      length_blockBits, chunkForm, size_blockForm]

end

/-- Settles O37: `encodeBlock_least` for the candidates of the selector. -/
theorem blockHasLeastSize : Obligations.BlockHasLeastSize := by
  intro inp start endp final sel s hsel cand ts form r
  obtain ⟨bt, hmem, -, hleast, hr⟩ := encodeBlock_least inp start endp final hsel s
  have hbtype : r.btype = bt := congrArg BlockResult.btype hr
  have hsize : r.size = (form bt).size := congrArg BlockResult.size hr
  have hstate : r.state.wpos = s.wpos + r.size := by
    rw [congrArg BlockResult.state hr, State.appendBits_wpos, withBlockTokens_wpos, hsize,
      length_blockBits]
    exact congrArg _ (size_blockForm _ _ _ _).symm
  rw [hbtype]
  exact ⟨hmem, hsize, hstate, hleast⟩

end Sys2Proof.Machine

/-! ## `ENCBLK` as a command (R35, R240, R241, R256) -/

namespace Sys2Proof.Machine

/-- `WriteBits` changes the output and its cursor alone. -/
theorem appendBits_frame (bits : List Bool) (s : State) : s.appendBits bits =
    { s with obuf := (s.appendBits bits).obuf, wpos := s.wpos + bits.length } := by
  cases bits <;> rfl

/-- The bits appended stand at the cursor (R27, R63). -/
theorem bitsAt_appendBits {s : State} (hpad : s.PadZero) (bits : List Bool) :
    BitsAt (s.appendBits bits).outBit s.wpos bits := by
  intro k hk
  rw [State.outBit, outputBit_appendBits hpad bits (by omega), if_neg (by omega),
    Nat.add_sub_cancel_left, List.getD_eq_getElem]

theorem withBlockTokens_frame (inp : List Byte) (start endp sel : Nat) (s : State) :
    withBlockTokens inp start endp sel s = { s with
      tok := (withBlockTokens inp start endp sel s).tok
      ntok := (withBlockTokens inp start endp sel s).ntok } := by
  unfold withBlockTokens
  split_ifs <;> rfl

section
variable (s : State)

/-- The form of the block `ENCBLK` writes as a type (R240, R241). -/
def encblkForm (bt : Nat) : BlockForm :=
  chunkForm s.inputBytes s.arg0.toNat s.arg1.toNat s.arg3.toNat s bt

/-- The state `ENCBLK` appends the block to. -/
def encblkBase : State :=
  withBlockTokens s.inputBytes s.arg0.toNat s.arg1.toNat s.arg3.toNat s.begin

/-- What `ENCBLK` leaves when it writes a block of a type (R41, R240, R256). -/
def encblkState (bt : Nat) : State :=
  let u := (encblkBase s).appendBits (blockBits (s.arg2 == 1) (encblkForm s bt))
  ({ u.dropTables with
    res0 := BitVec.ofNat 32 bt, res1 := BitVec.ofNat 32 (encblkForm s bt).size }).finish

theorem encblkBase_frame : encblkBase s = { s with
    status := .busy, err := none, tok := (encblkBase s).tok, ntok := (encblkBase s).ntok } :=
  withBlockTokens_frame ..

theorem encblkState_frame (bt : Nat) :
    let t := encblkState s bt
    t = { s with
      status := .done, err := none, wpos := t.wpos, obuf := t.obuf, tok := t.tok, ntok := t.ntok
      freqLL := t.freqLL, freqD := t.freqD, freqCL := t.freqCL, lenLL := t.lenLL, lenD := t.lenD
      lenCL := t.lenCL, codeLL := t.codeLL, codeD := t.codeD, codeCL := t.codeCL
      dtblLL := t.dtblLL, dtblD := t.dtblD, dtblCL := t.dtblCL, res0 := t.res0, res1 := t.res1
      fresh := t.fresh } := by
  unfold encblkState
  rw [appendBits_frame, encblkBase_frame]
  rfl

@[simp] theorem encblkBase_wpos : (encblkBase s).wpos = s.wpos := withBlockTokens_wpos ..

@[simp] theorem encblkState_tok (bt : Nat) : (encblkState s bt).tok = (encblkBase s).tok := by
  simp [encblkState]

@[simp] theorem encblkState_ntok (bt : Nat) : (encblkState s bt).ntok = (encblkBase s).ntok := by
  simp [encblkState]

/-- A block's size is the number of its bits, of which its header has three (R257(a)). -/
theorem size_encblkForm (bt : Nat) :
    (encblkForm s bt).size = (blockBits (s.arg2 == 1) (encblkForm s bt)).length ∧
      (encblkForm s bt).size = 3 + (encblkForm s bt).body.length := by
  rw [length_blockBits]
  exact ⟨size_blockForm .., size_blockForm ..⟩

@[simp] theorem encblkState_wpos (bt : Nat) :
    (encblkState s bt).wpos = s.wpos + (encblkForm s bt).size := by
  simp [encblkState, size_encblkForm s bt]

end

section
variable {s : State}

theorem execEncblk_refused (h : s.configOk = false ∨ chunkRangeOk s = false ∨ 1 < s.arg2.toNat ∨
    3 < s.arg3.toNat) : execEncblk s = .next (s.flagError .invalidConfig) := by
  have hbad : ¬(s.configOk = true ∧ chunkRangeOk s = true ∧ s.arg2.toNat ≤ 1 ∧ s.arg3.toNat ≤ 3) := by
    rintro ⟨hcfg, hrange, hfinal, hsel⟩
    rcases h with h | h | h | h
    · simp [hcfg] at h
    · simp [hrange] at h
    · omega
    · omega
  exact command_of_invalidConfig (if_neg hbad)

/-- An accepted `ENCBLK` writes the block that `EncodeBlock` selects (R240, R241). -/
theorem execEncblk_accepted (hcfg : s.configOk = true) (hrange : chunkRangeOk s = true)
    (hfinal : s.arg2.toNat ≤ 1) (hsel : s.arg3.toNat ≤ 3) :
    ∃ bt ∈ blockCandidates s.arg3.toNat s, bt ≤ 2 ∧
      bt = (encodeBlock s.inputBytes s.arg0.toNat s.arg1.toNat (s.arg2 == 1) s.arg3.toNat s).btype ∧
      execEncblk s = .next (encblkState s bt) := by
  obtain ⟨bt, hmem, hle, -, hr⟩ :=
    encodeBlock_least s.inputBytes s.arg0.toNat s.arg1.toNat (s.arg2 == 1) hsel s.begin
  refine ⟨bt, hmem, hle, (congrArg BlockResult.btype hr).symm, ?_⟩
  refine (command_of_ok (if_pos ⟨hcfg, hrange, hfinal, hsel⟩)).trans ?_
  exact congrArg (fun r : BlockResult => Host.Outcome.next (State.finish { r.state.dropTables with
    res0 := BitVec.ofNat 32 r.btype, res1 := BitVec.ofNat 32 r.size })) hr

/-- What `ENCBLK` writes stands at the cursor (R27, R63, R241). -/
theorem bitsAt_encblkState (hpad : s.PadZero) (bt : Nat) :
    BitsAt (encblkState s bt).outBit s.wpos (blockBits (s.arg2 == 1) (encblkForm s bt)) := by
  have hbase : (encblkBase s).PadZero := by
    rw [encblkBase_frame]
    exact hpad
  have hbits := bitsAt_appendBits hbase (blockBits (s.arg2 == 1) (encblkForm s bt))
  rwa [encblkBase_wpos] at hbits

/-- Bytes outside the block are as before (R241). -/
theorem obufAt_encblkState_of_outside (bt : Nat) {a : Nat}
    (h : a < s.wpos / 8 ∨ (encblkState s bt).olen ≤ a) :
    (encblkState s bt).obufAt a = s.obufAt a := by
  have hobuf : (encblkBase s).obufAt a = s.obufAt a := by
    rw [encblkBase_frame]
    rfl
  refine (obufAt_appendBits_of_outside (blockBits (s.arg2 == 1) (encblkForm s bt)) (encblkBase s) a
    ?_).trans hobuf
  rwa [State.olen_eq, encblkState_wpos, (size_encblkForm s bt).1, ← encblkBase_wpos] at h

/-- A block's header: `BFINAL`, then the two bits of its type (R101, R241). -/
theorem blockBits_eq (final : Bool) (f : BlockForm) :
    blockBits final f = final :: f.btype.testBit 0 :: f.btype.testBit 1 :: f.body := rfl

/-- The first three bits `ENCBLK` writes (R241). -/
theorem header_encblkState (hpad : s.PadZero) {bt : Nat} (hbt : bt ≤ 2) :
    ((encblkState s bt).obufAt (s.wpos / 8)).getLsbD (s.wpos % 8) = (s.arg2 == 1) ∧
    ((encblkState s bt).obufAt ((s.wpos + 1) / 8)).getLsbD ((s.wpos + 1) % 8) = bt.testBit 0 ∧
    ((encblkState s bt).obufAt ((s.wpos + 2) / 8)).getLsbD ((s.wpos + 2) % 8) = bt.testBit 1 := by
  have hbits := bitsAt_encblkState hpad bt
  rw [blockBits_eq, show (encblkForm s bt).btype = bt from btype_blockForm _ _ _ hbt] at hbits
  exact ⟨hbits 0 (by simp), hbits 1 (by simp), hbits 2 (by simp)⟩

/-- A chunk is tokenised unless its block can only be Stored (R241, R242). -/
theorem blockTokenised_iff {sel : Nat} (h : sel ≤ 3) (s : State) :
    blockTokenised sel s = true ↔ ¬(sel = 0 ∨ (sel = 3 ∧ s.level = 0)) := by
  unfold blockTokenised blockCandidates candidateTypes
  have : sel = 0 ∨ sel = 1 ∨ sel = 2 ∨ sel = 3 := by omega
  rcases this with rfl | rfl | rfl | rfl
  · simp
  · simp
  · simp
  · rw [if_pos rfl]
    split_ifs <;> simp [*]

/-- `TOK` and `NTOK` after `ENCBLK`: as before where nothing was tokenised, else the chunk's tokens
(R221, R241, R256). -/
theorem tokens_encblkBase (hsel : s.arg3.toNat ≤ 3) :
    encblkBase s = if s.arg3.toNat = 0 ∨ (s.arg3.toNat = 3 ∧ s.level = 0) then s.begin
      else s.begin.setTokens (tokenizeChunk s.matchConfig s.inputBytes s.arg0.toNat s.arg1.toNat) := by
  have hiff := blockTokenised_iff hsel s.begin
  unfold encblkBase withBlockTokens blockTokens
  by_cases htok : blockTokenised s.arg3.toNat s.begin = true
  · rw [if_pos htok, if_pos htok]
    exact (if_neg (hiff.1 htok)).symm
  · rw [if_neg htok]
    exact (if_pos (not_not.1 (mt hiff.2 htok))).symm

end

/-- The value of a final flag (R240). -/
theorem getLsbD_zero_of_le_one {v : BitVec 32} (h : v.toNat ≤ 1) : v.getLsbD 0 = (v == 1) := by
  have hv : v.toNat = 0 ∨ v.toNat = 1 := by omega
  rcases hv with hv | hv
  · rw [show v = 0 from BitVec.eq_of_toNat_eq hv]
    rfl
  · rw [show v = 1 from BitVec.eq_of_toNat_eq hv]
    rfl

/-- Settles O36: the command's two cases; what the second writes is the form `EncodeBlock` selects. -/
theorem encblkResult : Obligations.EncblkResult := by
  refine fun s => ⟨execEncblk_refused, fun hcfg hrange hfinal hsel => ?_⟩
  obtain ⟨bt, hmem, hbt, hselected, hexec⟩ := execEncblk_accepted hcfg hrange hfinal hsel
  have hres0 : (encblkState s bt).res0 = BitVec.ofNat 32 bt := rfl
  refine ⟨encblkState s bt, hexec, ?_, ?_, fun hforced => ?_, fun hpad => ?_, ?_, ?_, ?_,
    fun a ha => obufAt_encblkState_of_outside bt ha, ?_⟩
  · exact encblkState_frame s bt
  · rw [hres0, BitVec.toNat_ofNat]
    exact (Nat.mod_le _ _).trans hbt
  · rw [blockCandidates, if_neg (by omega), List.mem_singleton] at hmem
    rw [hres0, hmem, BitVec.ofNat_toNat, BitVec.setWidth_eq]
  · obtain ⟨hf, h0, h1⟩ := header_encblkState hpad hbt
    rw [hf, h0, h1, getLsbD_zero_of_le_one hfinal, hres0, BitVec.getLsbD_ofNat, BitVec.getLsbD_ofNat]
    exact ⟨rfl, rfl, rfl⟩
  · rw [hres0, hselected]
  · rw [encblkState_wpos, (size_encblkForm s bt).2]
    omega
  · rw [encblkState_wpos, Nat.add_sub_cancel_left]
    rfl
  · have hbase := tokens_encblkBase hsel
    obtain ⟨-, hend, -⟩ := (chunkRangeOk_iff s).1 hrange
    rw [encblkState_tok, encblkState_ntok]
    split_ifs at hbase ⊢
    · rw [hbase]
      exact ⟨rfl, rfl⟩
    · rw [hbase]
      intro ts
      refine ⟨rfl, fun i hi => ?_, fun i hi => read_setTokens_of_length_le ts s.begin hi⟩
      have hread := read_setTokens ts s.begin hi
      refine ⟨hread, ?_⟩
      rw [hread]
      exact tokenFields_of_mem_tokenizeChunk hcfg hend (List.getElem_mem hi)

end Sys2Proof.Machine

/-! ## A stored block as bytes (R246, R303) -/

namespace Sys2Proof

/-- A byte's bits are those of the number it is made of (R63). -/
theorem bitsOf_toNat_ofNat (v n : Nat) : bitsOf (BitVec.ofNat n v).toNat n = bitsOf v n := by
  refine List.map_congr_left fun i hi => ?_
  rw [BitVec.toNat_ofNat, Nat.testBit_mod_two_pow, decide_eq_true (List.mem_range.1 hi), Bool.true_and]

/-- A field is the field of its low bits and then the field of the rest (R63). -/
theorem bitsOf_add (v m n : Nat) : bitsOf v (m + n) = bitsOf v m ++ bitsOf (v / 2 ^ m) n := by
  refine List.ext_getElem (by simp) fun i hi hi' => ?_
  rw [getElem_bitsOf]
  by_cases hm : i < m
  · rw [List.getElem_append_left (by simpa using hm), getElem_bitsOf]
  · rw [List.getElem_append_right (by simpa using hm), getElem_bitsOf, Nat.testBit_div_two_pow,
      length_bitsOf, Nat.sub_add_cancel (Nat.le_of_not_lt hm)]

/-- The complement of a 16-bit value (R246). -/
theorem xor_65535 {n : Nat} (h : n < 65536) : n ^^^ 0xFFFF = 65535 - n := by
  refine Nat.eq_of_testBit_eq fun i => ?_
  have hsub := Nat.testBit_two_pow_sub_succ (n := 16) h i
  have hones := Nat.testBit_two_pow_sub_one 16 i
  rw [show 65535 - n = 2 ^ 16 - (n + 1) by omega, hsub, Nat.testBit_xor,
    show (0xFFFF : Nat) = 2 ^ 16 - 1 by rfl, hones]
  by_cases hi : i < 16
  · simp [hi]
  · have hpow : 2 ^ 16 ≤ 2 ^ i := Nat.pow_le_pow_right (by decide) (Nat.le_of_not_lt hi)
    rw [Nat.testBit_lt_two_pow (Nat.lt_of_lt_of_le h hpow)]
    simp [hi]

/-- Bytes as bits (R63). -/
def bytesBits (bs : List Byte) : List Bool := bs.flatMap fun b => bitsOf b.toNat 8

@[simp] theorem bytesBits_cons (b : Byte) (bs : List Byte) :
    bytesBits (b :: bs) = bitsOf b.toNat 8 ++ bytesBits bs := List.flatMap_cons

end Sys2Proof

namespace Sys2Proof.Machine

/-- The output of a state that wrote the bits of some bytes is those bytes (R63). -/
theorem State.Wrote.outputBytes {s : State} {bs : List Byte} (h : s.Wrote (bytesBits bs)) :
    s.outputBytes = bs := by
  have hlen : s.olen = bs.length := by
    rw [State.olen_eq, h.wpos, bytesBits, length_bytesBits]
    omega
  refine List.ext_getElem (by simp [State.outputBytes, hlen]) fun i hi hi' => ?_
  have hfield := fieldAt_flatMap_bytes h.out hi'
  rw [Nat.zero_add] at hfield
  have hbyte : s.outputBytes[i] = s.obufAt i := by simp [State.outputBytes, Memory.readRun, State.obufAt]
  rw [hbyte, ← BitVec.toNat_inj, ← hfield]
  refine Nat.eq_of_testBit_eq fun k => ?_
  rw [testBit_fieldAt, BitVec.testBit_toNat]
  by_cases hk : k < 8
  · rw [State.outBit, Nat.mul_add_div (by decide), Nat.mul_add_mod, Nat.div_eq_of_lt hk,
      Nat.mod_eq_of_lt hk, decide_eq_true hk, Bool.true_and]
    rfl
  · rw [decide_eq_false hk, Bool.false_and]
    exact BitVec.getLsbD_of_ge _ _ (Nat.le_of_not_lt hk)

section
variable {s : State}

/-- At level 0 the only candidate is Stored, and nothing is tokenised (R242). -/
theorem encodeBlock_level_zero (h : s.level = 0) (inp : List Byte) (start endp : Nat) (final : Bool) :
    (encodeBlock inp start endp final 3 s).state =
      s.appendBits (blockBits final (blockForm s.wpos ((inp.drop start).take (endp - start)) [] 0)) := by
  obtain ⟨bt, hmem, -, -, hr⟩ := encodeBlock_least inp start endp final le_rfl s
  have hcand : blockCandidates 3 s = [0] := by simp [blockCandidates, candidateTypes, h]
  have htok : blockTokenised 3 s = false := by simp [blockTokenised, hcand]
  rw [hcand, List.mem_singleton] at hmem
  rw [hr, hmem, chunkForm, withBlockTokens, blockTokens, htok]
  rfl

/-- An input of one chunk is written as one final block (R303). -/
theorem compressChunks_one (h : s.ilen ≤ 32768) (inp : List Byte) (n : Nat) :
    compressChunks inp (n + 1) 0 s = (encodeBlock inp 0 s.ilen true 3 s).state := by
  have hend : min (0 + chunkBytes) s.ilen = s.ilen := by
    rw [Nat.zero_add]
    exact Nat.min_eq_right h
  rw [compressChunks]
  simp only [hend, decide_true, if_true]

theorem execCompress_accepted (h : s.configOk = true) :
    execCompress s = .next s.begin.compressStream.finish := command_of_ok (if_pos h)

/-- Raw `COMPRESS` writes the blocks of its chunks and nothing else (R300). -/
theorem compressStream_raw (h : s.cfgFraming = 0) : s.compressStream =
    (compressChunks s.inputBytes (s.ilen / chunkBytes + 1) 0 s.clearCursors).alignW.dropTables := by
  have hraw : (s.cfgFraming == 1) = false := by
    rw [h]
    rfl
  unfold State.compressStream
  rw [hraw]
  rfl

theorem alignW_of_aligned (h : s.wpos % 8 = 0) : s.alignW = s := by
  rw [State.alignW, show 8 * ((s.wpos + 7) / 8) = s.wpos by omega]

/-- The bytes of an input stored as one final block (R246). -/
def storedBlockBytes (bytes : List Byte) : List Byte :=
  [1, BitVec.ofNat 8 bytes.length, BitVec.ofNat 8 (bytes.length / 256),
    BitVec.ofNat 8 (65535 - bytes.length), BitVec.ofNat 8 ((65535 - bytes.length) / 256)] ++ bytes

/-- A stored final block at the start of the output is whole bytes (R245, R246). -/
theorem blockBits_stored {bytes : List Byte} (h : bytes.length ≤ 32768) (ts : List Token) :
    blockBits true (blockForm 0 bytes ts 0) = bytesBits (storedBlockBytes bytes) := by
  have hword : ∀ v, bitsOf v 16 = bitsOf v 8 ++ bitsOf (v / 256) 8 := fun v => bitsOf_add v 8 8
  have hhead : true :: bitsOf 0 2 ++ List.replicate (storedPad 0) false = bitsOf (1 : Byte).toNat 8 := by
    decide
  have hform : blockForm 0 bytes ts 0 =
    ⟨0, 3 + storedPad 0 + 32 + 8 * bytes.length, storedBits 0 bytes⟩ := if_pos rfl
  rw [blockBits, hform, storedBits, storedBlockBytes, xor_65535 (by omega)]
  simp only [List.cons_append, List.nil_append, bytesBits_cons, bitsOf_toNat_ofNat]
  rw [← hhead, hword, hword]
  simp [bytesBits]

/-- Raw `COMPRESS` of one chunk at level 0 writes one stored block (R242, R300, R303). -/
theorem compressStream_stored (hlevel : s.level = 0) (hraw : s.cfgFraming = 0) (hlen : s.ilen ≤ 32768) :
    s.compressStream =
      (s.clearCursors.appendBits (bytesBits (storedBlockBytes s.inputBytes))).dropTables := by
  have hinput : s.inputBytes.length = s.ilen := Memory.length_readRun ..
  have hchunk : (s.inputBytes.drop 0).take (s.ilen - 0) = s.inputBytes :=
    List.take_of_length_le hinput.le
  have hblocks : compressChunks s.inputBytes (s.ilen / chunkBytes + 1) 0 s.clearCursors =
      s.clearCursors.appendBits (bytesBits (storedBlockBytes s.inputBytes)) := by
    refine (compressChunks_one (s := s.clearCursors) hlen s.inputBytes _).trans ?_
    refine (encodeBlock_level_zero (s := s.clearCursors) hlevel s.inputBytes 0 s.ilen true).trans ?_
    rw [hchunk, ← blockBits_stored (hinput.le.trans hlen) []]
    rfl
  have haligned : (s.clearCursors.appendBits (bytesBits (storedBlockBytes s.inputBytes))).wpos % 8 = 0 := by
    rw [State.appendBits_wpos, bytesBits, length_bytesBits, State.clearCursors_wpos]
    omega
  rw [compressStream_raw hraw, hblocks, alignW_of_aligned haligned]

end

/-- Settles O40: the one block is stored, and its header with the pad is the byte 1. -/
theorem storedCompressBytes : Obligations.StoredCompressBytes := by
  intro s hcfg hlevel hraw hlen
  have hinput : s.inputBytes.length = s.ilen := Memory.length_readRun ..
  have hbytes := ((wrote_nil (s := s.begin.clearCursors) rfl).appendBits
    (bytesBits (storedBlockBytes s.inputBytes))).outputBytes
  refine ⟨_, execCompress_accepted hcfg, rfl, ?_⟩
  rw [compressStream_stored (s := s.begin) hlevel hraw hlen, ← hinput]
  exact hbytes

end Sys2Proof.Machine

/-! ## Elements read one after the other (R100, R270)

What one element does with its bits when they stand at the cursor: the steps a block's bits are read by. -/

namespace Sys2Proof.Machine

/-! ### Runs of elements -/

/-- Elements decoded and executed one after the other lead from one state to another (R100). -/
def ElementSteps : State → State → Prop := Relation.ReflTransGen fun s t => elementStep s = .next t

namespace ElementSteps
variable {s t u : State}

theorem single (h : elementStep s = .next t) : ElementSteps s t := Relation.ReflTransGen.single h

theorem tail (h : ElementSteps s t) (h' : elementStep t = .next u) : ElementSteps s u :=
  Relation.ReflTransGen.tail h h'

theorem trans (h : ElementSteps s t) (h' : ElementSteps t u) : ElementSteps s u :=
  Relation.ReflTransGen.trans h h'

end ElementSteps

theorem phase_ne_idle_of_elementStep {s t : State} (h : elementStep s = .next t) : s.phase ≠ .idle := by
  intro hp
  have hnone : s.fetchElement = .error .notDecoding := by
    simp only [State.fetchElement, decodeElem, State.ctx, hp]
  rw [elementStep, hnone] at h
  cases h

/-- The loop of a decode command ends where its elements lead. -/
theorem runElements_of_elementSteps {n : Nat} {s t v : State} (h : ElementSteps s t)
    (ht : t.phase = .idle) (hrun : runElements n s = .next v) : v = t := by
  induction h using Relation.ReflTransGen.head_induction_on generalizing n with
  | refl =>
    rw [runElements_of_idle ht] at hrun
    exact (Host.Outcome.next.inj hrun).symm
  | head hstep _ ih =>
    have hp := phase_ne_idle_of_elementStep hstep
    cases n with
    | zero =>
      rw [runElements, if_neg hp] at hrun
      cases hrun
    | succ n =>
      rw [runElements_succ hp hstep] at hrun
      exact ih hrun

theorem elementStep_of_decodeElem {s : State} {i : Instr} {n : Nat}
    (h : decodeElem s.ctx s.streamBit s.remaining = .ok (i, n)) : elementStep s = execElement i s := by
  unfold elementStep State.fetchElement
  rw [h]

/-! ### The bits ahead of the cursor -/

/-- The input from the read cursor on begins with a list of bits (R143). -/
def State.Ahead (s : State) (bits : List Bool) : Prop := StartsWith s.streamBit s.remaining bits

theorem State.Ahead.left {s : State} {l m : List Bool} (h : s.Ahead (l ++ m)) : s.Ahead l :=
  StartsWith.append h

/-- Behind the bits read stand the ones that follow. -/
theorem State.Ahead.advance {s t : State} {l m : List Bool} (h : s.Ahead (l ++ m))
    (hibuf : t.ibuf = s.ibuf) (hilen : t.ilen = s.ilen) (hrpos : t.rpos = s.rpos + l.length) :
    t.Ahead m := by
  have hfits := h.fits
  rw [List.length_append, State.remaining_eq] at hfits
  refine ⟨by rw [State.remaining_eq, hilen, hrpos]; omega, fun k hk => ?_⟩
  rw [← h.at_cursor.append.2 k hk, Nat.zero_add, Nat.zero_add, State.streamBit, State.streamBit,
    State.ibufAt, State.ibufAt, hibuf, hrpos, Nat.add_assoc]

/-- Only what the elements of a block read and write may differ, and `n` bits were read (R286). -/
def ReadFrame (s t : State) (n : Nat) : Prop :=
  t = { s with
    rpos := s.rpos + n, wpos := t.wpos, obuf := t.obuf, lenLL := t.lenLL, lenD := t.lenD
    lenCL := t.lenCL, dtblLL := t.dtblLL, dtblD := t.dtblD, dtblCL := t.dtblCL, phase := t.phase
    run := t.run }

namespace ReadFrame
variable {s t u : State} {m n : Nat}

theorem trans (h : ReadFrame s t m) (h' : ReadFrame t u n) : ReadFrame s u (m + n) := by
  unfold ReadFrame at h h' ⊢
  rw [h] at h'
  rw [← Nat.add_assoc]
  exact h'

theorem rpos (h : ReadFrame s t n) : t.rpos = s.rpos + n := by
  unfold ReadFrame at h
  rw [h]

theorem ibuf (h : ReadFrame s t n) : t.ibuf = s.ibuf := by
  unfold ReadFrame at h
  rw [h]

theorem ilen (h : ReadFrame s t n) : t.ilen = s.ilen := by
  unfold ReadFrame at h
  rw [h]

theorem cfgWbits (h : ReadFrame s t n) : t.cfgWbits = s.cfgWbits := by
  unfold ReadFrame at h
  rw [h]

theorem window (h : ReadFrame s t n) : t.window = s.window := by rw [State.window, h.cfgWbits]; rfl

theorem ahead (h : ReadFrame s t n) {l k : List Bool} (ha : s.Ahead (l ++ k)) (hn : n = l.length) :
    t.Ahead k := ha.advance h.ibuf h.ilen (hn ▸ h.rpos)

end ReadFrame

end Sys2Proof.Machine

/-! ## One symbol of a block's data (R281 to R284) -/

namespace Sys2Proof.Machine

/-- A used symbol's codeword at the cursor is decoded to the symbol (R174, R196). -/
theorem decodeSym_symBits {a : Alphabet} {lens : List Nat} {sym : Nat} {bit : Nat → Bool} {rem : Nat}
    (ht : TableOfCode a (builtTable a lens)) (hused : 0 < lens.getD sym 0)
    (h : StartsWith bit rem (symBits (canonicalCodes a.maxBits lens) lens sym)) :
    decodeSym a (builtTable a lens) bit rem = .ok (sym, lens.getD sym 0) := by
  have hword : symBits (canonicalCodes a.maxBits lens) lens sym =
    codeword ((canonicalCodes a.maxBits lens).getD sym 0) (lens.getD sym 0) := bitsOf_revBits _ _
  rw [hword] at h
  exact decodeSym_builtTable ht (getElem?_of_getD_pos hused) hused.ne' rfl h.fits h.at_cursor

/-- Code lengths that `BuildDecoder(a)` accepts (R160, R192). -/
structure AcceptedLens (a : Alphabet) (lens : List Nat) : Prop where
  length : lens.length = a.nlen
  le : ∀ n ∈ lens, n ≤ a.maxBits
  accepted : codeAccepted a lens = true

theorem AcceptedLens.table {a : Alphabet} {lens : List Nat} (h : AcceptedLens a lens) :
    TableOfCode a (builtTable a lens) := ⟨lens, h.length, h.le, h.accepted, rfl⟩

theorem AcceptedLens.getD_le {a : Alphabet} {lens : List Nat} (h : AcceptedLens a lens) (sym : Nat) :
    lens.getD sym 0 ≤ a.maxBits := by
  by_cases hsym : sym < lens.length
  · rw [List.getD_eq_getElem _ _ hsym]
    exact h.le _ (List.getElem_mem hsym)
  · rw [List.getD_eq_default _ _ (Nat.le_of_not_lt hsym)]
    exact Nat.zero_le _

/-- The codes of a block's data: accepted, those of R104 in a Fixed block, with an end of block (R275,
R279). -/
structure BlockCodes (k : BlockKind) (ll d : List Nat) : Prop where
  acceptedLL : AcceptedLens .ll ll
  acceptedD : AcceptedLens .d d
  eob : 0 < ll.getD 256 0
  fixed : k = .fixed → ll = fixedLenLL ∧ d = fixedLenD

/-- The data of a block is decoded with the tables of its codes. -/
structure State.InBlock (s : State) (k : BlockKind) (ll d : List Nat) : Prop where
  codes : BlockCodes k ll d
  tableLL : s.dtblLL = builtTable .ll ll
  tableD : s.dtblD = builtTable .d d
  aligned : s.wpos % 8 = 0

/-- The element a literal/length symbol begins in a kind of block (R103). -/
def dataElem : BlockKind → Nat → Nat → Option Instr
  | .fixed, sym, _ => fixedElem sym
  | .dynamic, sym, n => dynElem sym n

theorem toNat_ofNat_of_lt {w v : Nat} (h : v < 2 ^ w) : (BitVec.ofNat w v).toNat = v :=
  Nat.mod_eq_of_lt h

section
variable {k : BlockKind} {sym n : Nat} (hn : n < 16) (hfix : k = .fixed → fixedLenLL[sym]? = some n)
include hn hfix

/-- A symbol below 256 begins a literal (R281). -/
theorem dataElem_literal (hsym : sym < 256) : ∃ i, dataElem k sym n = some i ∧
    ∀ s, execElement i s = literalElement k (BitVec.ofNat 8 sym) n s := by
  cases k with
  | fixed =>
    have hlen := fixedLenLL_length (hfix rfl)
    by_cases h1 : sym ≤ 143
    · rw [if_pos h1] at hlen
      exact ⟨_, if_pos h1, fun s => by rw [hlen]; rfl⟩
    · rw [if_neg h1, if_pos (by omega)] at hlen
      exact ⟨_, (if_neg h1).trans (if_pos (by omega)), fun s => by rw [hlen]; rfl⟩
  | dynamic =>
    refine ⟨_, if_pos (by omega), fun s => ?_⟩
    change literalElement .dynamic _ (BitVec.ofNat 4 n).toNat s = _
    rw [toNat_ofNat_of_lt hn]

/-- Symbol 256 is the end of the block (R282). -/
theorem dataElem_eob (hsym : sym = 256) : ∃ i, dataElem k sym n = some i ∧
    ∀ s, execElement i s = eobElement k n s := by
  subst hsym
  cases k with
  | fixed =>
    have hlen : n = 7 := fixedLenLL_length (hfix rfl)
    exact ⟨_, rfl, fun s => by rw [hlen]; rfl⟩
  | dynamic =>
    refine ⟨_, rfl, fun s => ?_⟩
    change eobElement .dynamic (BitVec.ofNat 4 n).toNat s = _
    rw [toNat_ofNat_of_lt hn]

/-- A symbol of 257 to 285 begins a match (R284). -/
theorem dataElem_length (hlo : 257 ≤ sym) (hhi : sym ≤ 285) : ∃ i, dataElem k sym n = some i ∧
    ∀ s, execElement i s = lengthCodeElement k sym n s := by
  have hvalue : (BitVec.ofNat 9 sym).toNat = sym := toNat_ofNat_of_lt (by omega)
  cases k with
  | fixed =>
    have hlen := fixedLenLL_length (hfix rfl)
    rw [if_neg (by omega), if_neg (by omega)] at hlen
    by_cases h1 : sym ≤ 279
    · rw [if_pos h1] at hlen
      refine ⟨.fixedLen257To279 (BitVec.ofNat 9 sym), ?_, fun s => ?_⟩
      · rw [dataElem, fixedElem, if_neg (by omega), if_neg (by omega), if_neg (by omega), if_pos h1]
      · change lengthCodeElement .fixed (BitVec.ofNat 9 sym).toNat 7 s = _
        rw [hvalue, hlen]
    · rw [if_neg h1] at hlen
      refine ⟨.fixedLen280To285 (BitVec.ofNat 9 sym), ?_, fun s => ?_⟩
      · rw [dataElem, fixedElem, if_neg (by omega), if_neg (by omega), if_neg (by omega), if_neg h1,
          if_pos hhi]
      · change lengthCodeElement .fixed (BitVec.ofNat 9 sym).toNat 8 s = _
        rw [hvalue, hlen]
  | dynamic =>
    refine ⟨.dynLen (BitVec.ofNat 9 sym) (BitVec.ofNat 4 n), ?_, fun s => ?_⟩
    · rw [dataElem, dynElem, if_neg (by omega), if_neg (by omega), if_pos hhi]
    · change lengthCodeElement .dynamic (BitVec.ofNat 9 sym).toNat (BitVec.ofNat 4 n).toNat s = _
      rw [hvalue, toNat_ofNat_of_lt hn]

end

section
variable {s : State} {k : BlockKind} {ll d : List Nat} {sym : Nat}

theorem BlockCodes.lengthLL (h : BlockCodes k ll d) (hused : 0 < ll.getD sym 0) :
    ll.getD sym 0 < 16 ∧ (k = .fixed → fixedLenLL[sym]? = some (ll.getD sym 0)) := by
  refine ⟨Nat.lt_succ_of_le (h.acceptedLL.getD_le sym), fun hk => ?_⟩
  rw [← (h.fixed hk).1]
  exact getElem?_of_getD_pos hused

/-- A literal/length codeword at the cursor is its element (R103, R280). -/
theorem elementStep_symLL (hs : s.InBlock k ll d) (hp : s.phase = .data k) (hused : 0 < ll.getD sym 0)
    (h : s.Ahead (symBits (canonicalCodes 15 ll) ll sym)) {i : Instr}
    (hi : dataElem k sym (ll.getD sym 0) = some i) : elementStep s = execElement i s := by
  have hsym := decodeSym_symBits hs.codes.acceptedLL.table hused h
  rw [← hs.tableLL] at hsym
  refine elementStep_of_decodeElem (n := ll.getD sym 0) ?_
  cases k <;> simp only [decodeElem, State.ctx, hp, hsym] <;> exact congrArg (elemOr · _) hi

/-- A literal's codeword puts out its byte (R281). -/
theorem elementStep_literal (hs : s.InBlock k ll d) (hp : s.phase = .data k) (hsym : sym < 256)
    (hused : 0 < ll.getD sym 0) (h : s.Ahead (symBits (canonicalCodes 15 ll) ll sym)) :
    elementStep s = .next ((s.skip (ll.getD sym 0)).outBytes [BitVec.ofNat 8 sym]) := by
  obtain ⟨hn, hfix⟩ := hs.codes.lengthLL hused
  obtain ⟨i, hi, hexec⟩ := dataElem_literal hn hfix hsym
  rw [elementStep_symLL hs hp hused h hi, hexec, literalElement_of_phase _ _ hp]

/-- The codeword of symbol 256 ends the block (R282). -/
theorem elementStep_eob (hs : s.InBlock k ll d) (hp : s.phase = .data k)
    (h : s.Ahead (symBits (canonicalCodes 15 ll) ll 256)) :
    elementStep s = .next (s.skip (ll.getD 256 0)).endBlock := by
  obtain ⟨hn, hfix⟩ := hs.codes.lengthLL hs.codes.eob
  obtain ⟨i, hi, hexec⟩ := dataElem_eob hn hfix rfl
  rw [elementStep_symLL hs hp hs.codes.eob h hi, hexec, eobElement, if_pos hp]

/-- The codeword of a length symbol (R284). -/
theorem elementStep_lengthCode (hs : s.InBlock k ll d) (hp : s.phase = .data k) (hlo : 257 ≤ sym)
    (hhi : sym ≤ 285) (hused : 0 < ll.getD sym 0)
    (h : s.Ahead (symBits (canonicalCodes 15 ll) ll sym)) :
    elementStep s = .next { s.skip (ll.getD sym 0) with phase := .lenExtra k sym } := by
  obtain ⟨hn, hfix⟩ := hs.codes.lengthLL hused
  obtain ⟨i, hi, hexec⟩ := dataElem_length hn hfix hlo hhi
  rw [elementStep_symLL hs hp hused h hi, hexec, lengthCodeElement_of_phase _ _ hp]

/-- The extra bits of a length symbol (R284). -/
theorem elementStep_lengthExtra {j x : Nat} (hp : s.phase = .lenExtra k (257 + j)) (hj : j < 29)
    (hx : x < 2 ^ lengthExtra j) (h : s.Ahead (bitsOf x (lengthExtra j))) :
    elementStep s =
      .next { s.skip (lengthExtra j) with phase := .distCode k (lengthBase j + x) } := by
  obtain ⟨i, hi⟩ : ∃ i, lengthElem j x = some i :=
    ⟨_, List.getElem?_eq_getElem (i := j) (by simpa using hj)⟩
  have hf := lengthElem_fields hi
  rw [Nat.mod_eq_of_lt hx] at hf
  rw [elementStep_of_decodeElem (decode_length hp hf h), (execElement_of_lengthFields hf s).1,
    lengthElement_of_phase _ hp]

/-- The codeword of a distance symbol (R284). -/
theorem elementStep_distCode {len : Nat} (hs : s.InBlock k ll d) (hp : s.phase = .distCode k len)
    (hsym : sym ≤ 29) (hused : 0 < d.getD sym 0)
    (h : s.Ahead (symBits (canonicalCodes 15 d) d sym)) :
    elementStep s = .next { s.skip (d.getD sym 0) with phase := .distExtra k len sym } := by
  have hdec := decodeSym_symBits hs.codes.acceptedD.table hused h
  have hvalue : (BitVec.ofNat 5 sym).toNat = sym := toNat_ofNat_of_lt (by omega)
  rw [← hs.tableD] at hdec
  cases k with
  | fixed =>
    have hlen : d.getD sym 0 = 5 := by
      refine fixedLenD_length (sym := sym) ?_
      rw [← (hs.codes.fixed rfl).2]
      exact getElem?_of_getD_pos hused
    rw [elementStep_of_decodeElem (i := .fixedDist (BitVec.ofNat 5 sym)) (n := d.getD sym 0)]
    · refine (distCodeElement_of_phase _ 5 hp).trans ?_
      rw [hvalue, hlen]
    · simp only [decodeElem, State.ctx, hp, hdec, if_pos (hsym.trans (by decide : 29 ≤ 31)), elemOr]
  | dynamic =>
    have hn : d.getD sym 0 < 2 ^ 4 := Nat.lt_succ_of_le (hs.codes.acceptedD.getD_le sym)
    rw [elementStep_of_decodeElem (i := .dynDist (BitVec.ofNat 5 sym) (BitVec.ofNat 4 (d.getD sym 0)))
      (n := d.getD sym 0)]
    · refine (distCodeElement_of_phase _ _ hp).trans ?_
      rw [hvalue, toNat_ofNat_of_lt hn]
    · simp only [decodeElem, State.ctx, hp, hdec, if_pos hsym, elemOr]

/-- The extra bits of a distance symbol copy the match, if it is in reach (R284, R285). -/
theorem elementStep_distExtra {len x : Nat} (hp : s.phase = .distExtra k len sym) (hsym : sym ≤ 29)
    (hx : x < 2 ^ distExtra sym) (hwin : distBase sym + x ≤ s.window) (hout : distBase sym + x ≤ s.olen)
    (h : s.Ahead (bitsOf x (distExtra sym))) :
    elementStep s = .next
      { copyBytes (distBase sym + x) len (s.skip (distExtra sym)) with phase := .data k } := by
  obtain ⟨i, hi⟩ : ∃ i, distElem sym x = some i :=
    ⟨_, List.getElem?_eq_getElem (i := sym) (by simp; omega)⟩
  have hf := distElem_fields hi
  rw [Nat.mod_eq_of_lt hx] at hf
  have hexec : execElement i s = distElement sym x s :=
    (exec_eq_execElement (encodeHost_of_distFields hf) s).symm.trans (exec_of_distFields hf hsym s)
  rw [elementStep_of_decodeElem (decode_dist hp hf h), hexec, distElement_within hp hwin hout]

end

end Sys2Proof.Machine

/-! ## The tokens of a block read back (R74, R248, R250, R281 to R285) -/

namespace Sys2Proof.Machine

/-! ### Lengths and distances as symbols (R248) -/

/-- The entries that a search passes over have the property, and the one it stops at has not. -/
theorem takeWhile_spec (p : Nat → Bool) (l : List Nat) :
    (∀ i < (l.takeWhile p).length, p (l.getD i 0) = true) ∧
      ((l.takeWhile p).length < l.length → p (l.getD (l.takeWhile p).length 0) = false) := by
  induction l with
  | nil => simp
  | cons b l ih =>
    obtain ⟨hrun, hstop⟩ := ih
    cases hb : p b with
    | true =>
      rw [List.takeWhile_cons_of_pos hb, List.length_cons, List.length_cons]
      refine ⟨fun i hi => ?_, fun hlt => hstop (by omega)⟩
      cases i with
      | zero => exact hb
      | succ i => exact hrun i (by omega)
    | false =>
      rw [List.takeWhile_cons_of_neg (by simp [hb])]
      exact ⟨nofun, fun _ => hb⟩

/-- The base found is not above the value, and the next one is (R248). -/
theorem baseIndex_spec {b v : Nat} {bases : List Nat} (hb : b ≤ v) :
    (b :: bases).getD (baseIndex (b :: bases) v) 0 ≤ v ∧
      baseIndex (b :: bases) v < (b :: bases).length ∧
      (baseIndex (b :: bases) v + 1 < (b :: bases).length →
        v < (b :: bases).getD (baseIndex (b :: bases) v + 1) 0) := by
  obtain ⟨hrun, hstop⟩ := takeWhile_spec (· ≤ v) (b :: bases)
  simp only [decide_eq_true_eq, decide_eq_false_iff_not, Nat.not_le] at hrun hstop
  have hle := (List.takeWhile_sublist (l := b :: bases) (· ≤ v)).length_le
  have hpos : 0 < ((b :: bases).takeWhile (· ≤ v)).length := by simp [hb]
  have hindex : ((b :: bases).takeWhile (· ≤ v)).length = baseIndex (b :: bases) v + 1 := by
    unfold baseIndex
    omega
  rw [hindex] at hrun hstop hle
  exact ⟨hrun _ (Nat.lt_succ_self _), hle, hstop⟩

/-- A length of 3 to 258 is a length symbol's base plus a value of its extra bits (R106, R248). -/
theorem lenSym_spec {len : Nat} (hlo : 3 ≤ len) (hhi : len ≤ 258) :
    ∃ j < 29, lenSym len = ⟨257 + j, lengthExtra j, len - lengthBase j⟩ ∧ lengthBase j ≤ len ∧
      len - lengthBase j < 2 ^ lengthExtra j := by
  have hnext : ∀ j < 28, lengthBase (j + 1) ≤ lengthBase j + 2 ^ lengthExtra j := by decide
  by_cases h258 : len = 258
  · subst h258
    exact ⟨28, by decide, by decide, by decide, by decide⟩
  · obtain ⟨hbase, hlt, hstop⟩ : lengthBase (baseIndex lengthBases len) ≤ len ∧
        baseIndex lengthBases len < 29 ∧ (baseIndex lengthBases len + 1 < 29 →
          len < lengthBase (baseIndex lengthBases len + 1)) := baseIndex_spec hlo
    have hlast : baseIndex lengthBases len ≠ 28 := fun h => by
      rw [h] at hbase
      have : lengthBase 28 = 258 := rfl
      omega
    refine ⟨_, hlt, if_neg h258, hbase, ?_⟩
    have := hnext (baseIndex lengthBases len) (by omega)
    have := hstop (by omega)
    omega

/-- A distance of 1 to 32768 is a distance symbol's base plus a value of its extra bits (R107, R248). -/
theorem distSym_spec {dist : Nat} (hlo : 1 ≤ dist) (hhi : dist ≤ 32768) :
    ∃ j ≤ 29, distSym dist = ⟨j, distExtra j, dist - distBase j⟩ ∧ distBase j ≤ dist ∧
      dist - distBase j < 2 ^ distExtra j := by
  have hnext : ∀ j < 29, distBase (j + 1) ≤ distBase j + 2 ^ distExtra j := by decide
  obtain ⟨hbase, hlt, hstop⟩ : distBase (baseIndex distBases dist) ≤ dist ∧
      baseIndex distBases dist < 30 ∧ (baseIndex distBases dist + 1 < 30 →
        dist < distBase (baseIndex distBases dist + 1)) := baseIndex_spec hlo
  refine ⟨_, Nat.le_of_lt_succ hlt, rfl, hbase, ?_⟩
  by_cases hlast : baseIndex distBases dist = 29
  · rw [hlast] at hbase ⊢
    have : distBase 29 = 24577 := rfl
    have : distExtra 29 = 13 := rfl
    rw [this]
    omega
  · have := hnext (baseIndex distBases dist) (by omega)
    have := hstop (by omega)
    omega

/-! ### The output as bytes (R272, R285) -/

theorem outputBytes_eq (s : State) : s.outputBytes = (List.range s.olen).map s.obufAt :=
  List.map_congr_left fun i _ => by rw [Nat.zero_add]; rfl

theorem olen_of_aligned {s : State} (h : s.wpos % 8 = 0) : s.olen = s.wpos / 8 := by
  rw [State.olen_eq]
  omega

/-- Bytes put out are appended to the output (R272). -/
theorem outputBytes_outBytes {s : State} (h : s.wpos % 8 = 0) (bs : List Byte) :
    (s.outBytes bs).outputBytes = s.outputBytes ++ bs := by
  have holen := olen_of_aligned h
  have holen' : (s.outBytes bs).olen = s.olen + bs.length := by
    rw [State.olen_eq, State.outBytes_wpos, holen]
    omega
  rw [outputBytes_eq, outputBytes_eq, holen', List.range_add, List.map_append]
  congr 1
  · refine List.map_congr_left fun i hi => obufAt_outBytes_of_outside bs s i (.inl ?_)
    rw [← holen]
    exact List.mem_range.1 hi
  · refine List.ext_getElem (by simp) fun i hi hi' => ?_
    simp [holen, obufAt_outBytes bs s i hi']

/-- The output of a copy is the expanded match: both go byte by byte (R74, R285). -/
theorem outputBytes_copyBytes {dist : Nat} (hpos : 1 ≤ dist) (len : Nat) {s : State}
    (h : s.wpos % 8 = 0) (hle : dist ≤ s.olen) :
    (copyBytes dist len s).outputBytes = expandToken s.outputBytes (.copy len dist) := by
  induction len generalizing s with
  | zero => rfl
  | succ len ih =>
    have hbyte : s.outputBytes.getD (s.outputBytes.length - dist) 0 = s.obufAt (s.olen - dist) := by
      have hlt : s.olen - dist < s.olen := by omega
      rw [outputBytes_eq, List.length_map, List.length_range]
      simp [hlt]
    have hwpos : (s.outBytes [s.obufAt (s.olen - dist)]).wpos = s.wpos + 8 := State.outBytes_wpos ..
    have holen : dist ≤ (s.outBytes [s.obufAt (s.olen - dist)]).olen := by
      rw [State.olen_eq] at hle ⊢
      omega
    rw [copyBytes_succ, ih (by omega) holen, outputBytes_outBytes h, expandToken, expandToken,
      List.range_succ_eq_map, List.foldl_cons, List.foldl_map, hbyte]

/-! ### One token -/

@[simp] theorem length_outputBytes (s : State) : s.outputBytes.length = s.olen := by simp [outputBytes_eq]

theorem outputBytes_congr {s t : State} (hobuf : t.obuf = s.obuf) (hwpos : t.wpos = s.wpos) :
    t.outputBytes = s.outputBytes := by
  rw [outputBytes_eq, outputBytes_eq, State.olen_eq, State.olen_eq, hwpos]
  unfold State.obufAt
  rw [hobuf]

/-- Elements of a block's data: `n` bits are read, and the output grows (R280). -/
structure Emits (s t : State) (n : Nat) : Prop where
  steps : ElementSteps s t
  frame : t = { s with rpos := s.rpos + n, wpos := t.wpos, obuf := t.obuf }
  aligned : t.wpos % 8 = 0

/-- Bits are skipped, and the next element is of a phase (R64, R100). -/
def State.skipTo (n : Nat) (p : Phase) (s : State) : State := { s.skip n with phase := p }

@[simp] theorem State.skipTo_window (n : Nat) (p : Phase) (s : State) :
    (s.skipTo n p).window = s.window := rfl
@[simp] theorem State.skipTo_wpos (n : Nat) (p : Phase) (s : State) : (s.skipTo n p).wpos = s.wpos := rfl
@[simp] theorem State.skipTo_olen (n : Nat) (p : Phase) (s : State) : (s.skipTo n p).olen = s.olen := rfl

theorem State.skipTo_skipTo (m n : Nat) (p q : Phase) (s : State) :
    (s.skipTo m p).skipTo n q = s.skipTo (m + n) q := by
  simp [State.skipTo, State.skip, Nat.add_assoc]
@[simp] theorem outputBytes_skipTo (n : Nat) (p : Phase) (s : State) :
    (s.skipTo n p).outputBytes = s.outputBytes := rfl
@[simp] theorem outputBytes_skip (n : Nat) (s : State) : (s.skip n).outputBytes = s.outputBytes := rfl

theorem State.Ahead.skipTo {s : State} {l m : List Bool} (h : s.Ahead (l ++ m)) {n : Nat} {p : Phase}
    (hn : l.length = n) : (s.skipTo n p).Ahead m :=
  h.advance rfl rfl (hn ▸ rfl)

theorem State.InBlock.skipTo {s : State} {k : BlockKind} {ll d : List Nat} (h : s.InBlock k ll d)
    {n : Nat} {p : Phase} : (s.skipTo n p).InBlock k ll d := ⟨h.codes, h.tableLL, h.tableD, h.aligned⟩

/-- A token that a block can hold after an output: a match is one of R216's, in reach (R284). -/
def TokenFits (window : Nat) (out : List Byte) : Token → Prop
  | .lit _ => True
  | .copy len dist =>
    3 ≤ len ∧ len ≤ 258 ∧ 1 ≤ dist ∧ dist ≤ window ∧ dist ≤ 32768 ∧ dist ≤ out.length

/-- The codes have codewords for a token's symbols. -/
def TokenUsed (ll d : List Nat) (tok : Token) : Prop :=
  0 < ll.getD (tokenSymLL tok) 0 ∧ ∀ sym ∈ tokenSymD tok, 0 < d.getD sym 0

section
variable {s : State} {k : BlockKind} {ll d : List Nat}

theorem emits_lit (hs : s.InBlock k ll d) (hp : s.phase = .data k) {b : Byte}
    (hused : 0 < ll.getD b.toNat 0) (h : s.Ahead (symBits (canonicalCodes 15 ll) ll b.toNat)) :
    ∃ t, Emits s t (ll.getD b.toNat 0) ∧ t.outputBytes = s.outputBytes ++ [b] := by
  have hstep := elementStep_literal hs hp b.isLt hused h
  rw [BitVec.ofNat_toNat, BitVec.setWidth_eq] at hstep
  refine ⟨_, ⟨.single hstep, outBytes_frame [b] _, ?_⟩, ?_⟩
  · rw [State.outBytes_wpos]
    exact (Nat.add_mul_mod_self_left _ _ _).trans hs.aligned
  · exact outputBytes_outBytes (s := s.skip (ll.getD b.toNat 0)) hs.aligned [b]

/-- The two elements of a match's length (R283, R284). -/
theorem elementSteps_length (hs : s.InBlock k ll d) (hp : s.phase = .data k) {len : Nat} (hlo : 3 ≤ len)
    (hhi : len ≤ 258) (hused : 0 < ll.getD (lenSym len).sym 0)
    (h : s.Ahead (symBits (canonicalCodes 15 ll) ll (lenSym len).sym ++
      bitsOf (lenSym len).extra (lenSym len).nbits)) :
    ElementSteps s (s.skipTo (ll.getD (lenSym len).sym 0 + (lenSym len).nbits) (.distCode k len)) := by
  obtain ⟨i, hi, hlen, hbase, hextra⟩ := lenSym_spec hlo hhi
  simp only [hlen] at h hused ⊢
  have hcode := elementStep_lengthCode hs hp (Nat.le_add_right _ _) (by omega) hused h.left
  have hbits : (s.skipTo (ll.getD (257 + i) 0) (.lenExtra k (257 + i))).Ahead _ := h.skipTo (by simp)
  have hextra := elementStep_lengthExtra (k := k) rfl hi hextra hbits
  rw [Nat.add_sub_cancel' hbase] at hextra
  rw [← State.skipTo_skipTo]
  exact (ElementSteps.single hcode).tail hextra

/-- The four elements of a match copy it (R283 to R285). -/
theorem emits_copy (hs : s.InBlock k ll d) (hp : s.phase = .data k) {len dist : Nat}
    (hfit : TokenFits s.window s.outputBytes (.copy len dist)) (hused : TokenUsed ll d (.copy len dist))
    (h : s.Ahead (tokenBits (canonicalCodes 15 ll) ll (canonicalCodes 15 d) d (.copy len dist))) :
    ∃ t, Emits s t (tokenSize ll d (.copy len dist)) ∧
      t.outputBytes = expandToken s.outputBytes (.copy len dist) := by
  obtain ⟨hlo, hhi, hpos, hwin, hfar, hback⟩ := hfit
  obtain ⟨husedLL, husedD⟩ := hused
  obtain ⟨j, hj, hdist, hbase, hextra⟩ := distSym_spec hpos hfar
  have husedD := husedD _ rfl
  have hvalue : distBase j + (dist - distBase j) = dist := Nat.add_sub_cancel' hbase
  rw [length_outputBytes] at hback
  simp only [tokenBits, tokenSize, hdist] at h husedD ⊢
  let s₁ := s.skipTo (ll.getD (lenSym len).sym 0 + (lenSym len).nbits) (.distCode k len)
  let s₂ := s₁.skipTo (d.getD j 0) (.distExtra k len j)
  have ha₁ : s₁.Ahead _ := (List.append_assoc .. ▸ h : s.Ahead _).skipTo (by simp)
  have ha₂ : s₂.Ahead _ := ha₁.skipTo (by simp)
  have hlength : ElementSteps s s₁ := elementSteps_length hs hp hlo hhi husedLL h.left.left
  have hcode : elementStep s₁ = .next s₂ := elementStep_distCode hs.skipTo rfl hj husedD ha₁.left
  have hwpos : (s₂.skip (distExtra j)).wpos = s.wpos := by simp [s₂, s₁]
  have hsame : (s₂.skip (distExtra j)).outputBytes = s.outputBytes := by simp [s₂, s₁]
  have hreach : dist ≤ (s₂.skip (distExtra j)).olen := by rwa [State.olen_eq, hwpos]
  have hcopy := elementStep_distExtra (k := k) (len := len) (s := s₂) rfl hj hextra
    (by simpa [s₂, s₁, hvalue] using hwin) (by simpa [s₂, s₁, hvalue] using hback) ha₂
  have hout := outputBytes_copyBytes (s := s₂.skip (distExtra j)) hpos len
    (by rw [hwpos]; exact hs.aligned) hreach
  rw [hvalue] at hcopy
  rw [hsame] at hout
  refine ⟨_, ⟨(hlength.tail hcode).tail hcopy, ?_, ?_⟩, (outputBytes_congr rfl rfl).trans hout⟩
  · rw [copyBytes_skip_frame]
    simp [s₂, s₁, State.skipTo, State.skip, hp, Nat.add_assoc]
  · change (copyBytes dist len (s₂.skip (distExtra j))).wpos % 8 = 0
    rw [copyBytes_wpos, hwpos, Nat.add_mul_mod_self_left, hs.aligned]

/-- The bits of a token the codes have and the output has room for are read back as the token. -/
theorem emits_token (hs : s.InBlock k ll d) (hp : s.phase = .data k) {tok : Token}
    (hfit : TokenFits s.window s.outputBytes tok) (hused : TokenUsed ll d tok)
    (h : s.Ahead (tokenBits (canonicalCodes 15 ll) ll (canonicalCodes 15 d) d tok)) :
    ∃ t, Emits s t (tokenSize ll d tok) ∧ t.outputBytes = expandToken s.outputBytes tok := by
  cases tok with
  | lit b => exact emits_lit hs hp hused.1 h
  | copy len dist => exact emits_copy hs hp hfit hused h

end

/-! ### The tokens of a chunk -/

/-- Tokens that a block can hold after an output, each after the ones before it (R284). -/
def TokensFit (window : Nat) : List Byte → List Token → Prop
  | _, [] => True
  | out, tok :: ts => TokenFits window out tok ∧ TokensFit window (expandToken out tok) ts

/-- The tokens from a position on fit after the input before it (R216, R221). -/
theorem tokensFit_tokenizeFrom {cfg : MatchConfig} {inp : List Byte} {endp fuel pos : Nat}
    (hwin : cfg.window ≤ 32768) (hend : endp ≤ inp.length) :
    TokensFit cfg.window (inp.take pos) (tokenizeFrom cfg inp endp fuel pos) := by
  induction fuel generalizing pos with
  | zero => trivial
  | succ fuel ih =>
    rcases Nat.lt_or_ge pos endp with hlt | hge
    · rcases tokenizeFrom_succ (cfg := cfg) (inp := inp) (fuel := fuel) hlt with hlit | ⟨m, hm, hcopy⟩
      · rw [hlit]
        refine ⟨trivial, ?_⟩
        rw [expandToken_lit (by omega)]
        exact ih
      · obtain ⟨hmin, hmax, hpos, hback, hin, hfar, hfits⟩ := findMatch_bounds hwin hend hm
        rw [hcopy]
        refine ⟨⟨hmin, hmax, hpos, hin, hfar, ?_⟩, ?_⟩
        · rwa [List.length_take_of_le (by omega)]
        · rw [expandToken_copy (by omega) hpos hback (findMatch_repeats hend hm)]
          exact ih
    · rw [tokenizeFrom_of_le hge]
      trivial

/-- Elements that read `n` bits to the end of a block, with the block's record and the output then. -/
structure EndsBlock (s t : State) (n : Nat) (r : DecodeRun) (out : List Byte) : Prop where
  steps : ElementSteps s t.endBlock
  frame : ReadFrame s t n
  run : t.run = r
  aligned : t.wpos % 8 = 0
  output : t.outputBytes = out

theorem EndsBlock.head {s t u : State} {m n : Nat} {r : DecodeRun} {out : List Byte}
    (hsteps : ElementSteps s t) (hframe : ReadFrame s t m) (h : EndsBlock t u n r out) :
    EndsBlock s u (m + n) r out :=
  ⟨hsteps.trans h.steps, hframe.trans h.frame, h.run, h.aligned, h.output⟩

namespace Emits
variable {s t : State} {n : Nat} (h : Emits s t n)
include h

theorem readFrame : ReadFrame s t n := by
  have hframe := h.frame
  unfold ReadFrame
  rw [hframe]

theorem phase : t.phase = s.phase := by rw [h.frame]

theorem run : t.run = s.run := by rw [h.frame]

theorem inBlock {k : BlockKind} {ll d : List Nat} (hs : s.InBlock k ll d) : t.InBlock k ll d := by
  refine ⟨hs.codes, ?_, ?_, h.aligned⟩
  · rw [h.frame, ← hs.tableLL]
  · rw [h.frame, ← hs.tableD]

end Emits

theorem tokensBits_cons (ll d : List Nat) (tok : Token) (ts : List Token) :
    tokensBits ll d (tok :: ts) =
      tokenBits (canonicalCodes 15 ll) ll (canonicalCodes 15 d) d tok ++ tokensBits ll d ts := by
  simp [tokensBits]

/-- The bits of a block's data are read back as its tokens, up to the end of the block (R250, R280). -/
theorem endsBlock_tokens {k : BlockKind} {ll d : List Nat} {ts : List Token} {s : State}
    (hs : s.InBlock k ll d) (hp : s.phase = .data k) (hfit : TokensFit s.window s.outputBytes ts)
    (hused : ∀ tok ∈ ts, TokenUsed ll d tok) (h : s.Ahead (tokensBits ll d ts)) :
    ∃ t, EndsBlock s t (tokensBits ll d ts).length s.run (expandTokens s.outputBytes ts) := by
  induction ts generalizing s with
  | nil =>
    have hbits : tokensBits ll d [] = symBits (canonicalCodes 15 ll) ll 256 := rfl
    rw [hbits] at h ⊢
    rw [length_symBits]
    exact ⟨s.skip (ll.getD 256 0), .single (elementStep_eob hs hp h), rfl, rfl, hs.aligned, rfl⟩
  | cons tok ts ih =>
    obtain ⟨hfirst, hrest⟩ := hfit
    rw [tokensBits_cons] at h ⊢
    obtain ⟨t, ht, hout⟩ := emits_token hs hp hfirst (hused tok List.mem_cons_self) h.left
    have hframe := ht.readFrame
    rw [← hout, ← hframe.window] at hrest
    obtain ⟨u, hu⟩ := ih (ht.inBlock hs) (ht.phase.trans hp) hrest
      (fun x hx => hused x (List.mem_cons_of_mem _ hx)) (hframe.ahead h (length_tokenBits ..).symm)
    rw [ht.run, hout] at hu
    rw [List.length_append, length_tokenBits]
    exact ⟨u, hu.head ht.steps hframe⟩

end Sys2Proof.Machine

/-! ## The codes of a block have what its tokens need (R104, R161, R247, R251) -/

namespace Sys2Proof.Machine

/-! ### Code lengths from frequencies -/

section
variable {a : Alphabet} {freqs : List Nat} {s : Nat} (hlen : freqs.length = a.nsym)
include hlen

theorem acceptedLens_codeLengths : AcceptedLens a (codeLengths a freqs) := by
  obtain ⟨hlength, hbounds, hkraft⟩ := huffmanLengthsComplete a freqs hlen
  refine ⟨hlength, fun n hn => ?_, codeAccepted_iff.2 (.inl hkraft)⟩
  obtain ⟨i, hi, rfl⟩ := List.getElem_of_mem hn
  have hbound := hbounds i (hlength ▸ hi)
  rw [List.getD_eq_getElem _ _ hi] at hbound
  split_ifs at hbound with hused
  · exact hbound.2
  · exact hbound.trans_le (Nat.zero_le _)

/-- A symbol past those with frequencies has no codeword (R161). -/
theorem codeLengths_eq_zero (h : a.nsym ≤ s) : (codeLengths a freqs).getD s 0 = 0 := by
  by_cases hs : s < a.nlen
  · rw [getD_codeLengths hs]
    exact positionLength_of_unused fun hmem => absurd (lt_nsym_of_mem_usedSyms hlen hmem) (Nat.not_lt.2 h)
  · exact List.getD_eq_default _ _ (by rw [length_codeLengths]; omega)

end

/-- Symbols that were used stay so (R162). -/
theorem forceOne_pos {f : List Nat} {s : Nat} (h : 0 < f.getD s 0) : 0 < (forceOne f).getD s 0 := by
  induction f generalizing s with
  | nil => exact h
  | cons x xs ih =>
    unfold forceOne
    split_ifs with hx
    · cases s with
      | zero => exact Nat.one_pos
      | succ s => exact h
    · cases s with
      | zero => exact h
      | succ s => exact ih h

theorem forceTwo_pos {f : List Nat} {s : Nat} (h : 0 < f.getD s 0) : 0 < (forceTwo f).getD s 0 := by
  unfold forceTwo
  simp only
  split_ifs
  · exact forceOne_pos (forceOne_pos h)
  · exact forceOne_pos h
  · exact h

/-- A symbol that occurs has a codeword (R161, R166). -/
theorem codeLengths_pos {a : Alphabet} {freqs : List Nat} {s : Nat} (hlen : freqs.length = a.nsym)
    (h : 0 < freqs.getD s 0) : 0 < (codeLengths a freqs).getD s 0 := by
  have hs : s < a.nlen := by
    by_contra hs
    rw [List.getD_eq_default _ _ (hlen.trans_le ((nsym_le_nlen a).trans (Nat.not_lt.1 hs)))] at h
    exact absurd h (Nat.lt_irrefl 0)
  rw [getD_codeLengths hs]
  exact positionLength_pos hlen (forceTwo_pos h)

@[simp] theorem length_symbolCounts (n : Nat) (syms : List Nat) : (symbolCounts n syms).length = n := by
  simp [symbolCounts]

theorem symbolCounts_pos {n s : Nat} {syms : List Nat} (hs : s < n) (h : s ∈ syms) :
    0 < (symbolCounts n syms).getD s 0 := by
  simpa [symbolCounts, hs] using h

/-! ### The symbols of tokens -/

/-- The symbols of tokens that fit are among those with codewords (R106, R107, R248). -/
theorem tokenSym_lt {window : Nat} {out : List Byte} {tok : Token} (h : TokenFits window out tok) :
    tokenSymLL tok < 286 ∧ ∀ sym ∈ tokenSymD tok, sym < 30 := by
  cases tok with
  | lit b =>
    have hb := b.isLt
    exact ⟨show b.toNat < 286 by omega, nofun⟩
  | copy len dist =>
    obtain ⟨hlo, hhi, hpos, -, hfar, -⟩ := h
    obtain ⟨i, hi, hlen, -⟩ := lenSym_spec hlo hhi
    obtain ⟨j, hj, hdist, -⟩ := distSym_spec hpos hfar
    simp only [tokenSymLL, tokenSymD, hlen, hdist, Option.mem_some_iff]
    exact ⟨by omega, by omega⟩

theorem tokenFits_of_mem {window : Nat} {ts : List Token} {out : List Byte} {tok : Token}
    (h : TokensFit window out ts) (hmem : tok ∈ ts) : ∃ out', TokenFits window out' tok := by
  induction ts generalizing out with
  | nil => cases hmem
  | cons x ts ih =>
    obtain ⟨hfirst, hrest⟩ := h
    rcases List.mem_cons.1 hmem with rfl | hmem
    · exact ⟨out, hfirst⟩
    · exact ih hrest hmem

/-! ### The fixed code -/

theorem fixedLenLL_pos {sym : Nat} (h : sym < 288) : 0 < fixedLenLL.getD sym 0 := by
  have hsym : sym < fixedLenLL.length := length_fixedLenLL.symm ▸ h
  have hlen := fixedLenLL_length (List.getElem?_eq_getElem hsym)
  rw [List.getD_eq_getElem _ _ hsym, hlen]
  split_ifs <;> decide

theorem fixedLenD_pos {sym : Nat} (h : sym < 32) : 0 < fixedLenD.getD sym 0 := by
  rw [fixedLenD, List.getD_replicate _ h]
  decide

theorem blockCodes_fixed : BlockCodes .fixed fixedLenLL fixedLenD where
  acceptedLL := ⟨length_fixedLenLL, fixedLenLL_le, codeAccepted_fixedLenLL⟩
  acceptedD := ⟨length_fixedLenD, fixedLenD_le, codeAccepted_fixedLenD⟩
  eob := fixedLenLL_pos (by decide)
  fixed := fun _ => ⟨rfl, rfl⟩

theorem tokenUsed_fixed {window : Nat} {out : List Byte} {tok : Token} (h : TokenFits window out tok) :
    TokenUsed fixedLenLL fixedLenD tok := by
  obtain ⟨hll, hd⟩ := tokenSym_lt h
  refine ⟨fixedLenLL_pos (by omega), fun sym hsym => fixedLenD_pos ?_⟩
  have := hd sym hsym
  omega

/-! ### The codes of `DynPlan` -/

theorem length_tokenFreqLL (ts : List Token) : (tokenFreqLL ts).length = Alphabet.ll.nsym :=
  length_symbolCounts ..

theorem length_tokenFreqD (ts : List Token) : (tokenFreqD ts).length = Alphabet.d.nsym :=
  length_symbolCounts ..

theorem blockCodes_dynPlan (ts : List Token) : BlockCodes .dynamic (dynPlan ts).ll (dynPlan ts).d where
  acceptedLL := acceptedLens_codeLengths (length_tokenFreqLL ts)
  acceptedD := acceptedLens_codeLengths (length_tokenFreqD ts)
  eob := codeLengths_pos (length_tokenFreqLL ts) (symbolCounts_pos (by decide) List.mem_cons_self)
  fixed := nofun

theorem tokenUsed_dynPlan {ts : List Token} {window : Nat} {out : List Byte} {tok : Token}
    (hmem : tok ∈ ts) (h : TokenFits window out tok) : TokenUsed (dynPlan ts).ll (dynPlan ts).d tok := by
  obtain ⟨hll, hd⟩ := tokenSym_lt h
  exact ⟨codeLengths_pos (length_tokenFreqLL ts)
      (symbolCounts_pos hll (List.mem_cons_of_mem _ (List.mem_map_of_mem hmem))),
    fun sym hsym => codeLengths_pos (length_tokenFreqD ts)
      (symbolCounts_pos (hd sym hsym) (List.mem_filterMap.2 ⟨tok, hmem, hsym⟩))⟩

end Sys2Proof.Machine

/-! ## A block read back: Stored and Fixed (R246, R250, R257(b), R273 to R275) -/

namespace Sys2Proof.Machine

/-! ### The header (R101, R273) -/

/-- The state when a block's header has been read and noted, in a mode (R273). -/
def State.noted (s : State) (final : Bool) (bt : BitVec 2) (p : Phase) : State :=
  { s.skip 3 with run := { s.run with bfinal := final, btype := bt }, phase := p }

theorem outputBytes_noted (s : State) (final : Bool) (bt : BitVec 2) (p : Phase) :
    (s.noted final bt p).outputBytes = s.outputBytes := rfl

/-- A block's header at the cursor, and what stands behind it. -/
theorem State.Ahead.header {s : State} {final : Bool} {f : BlockForm} (h : s.Ahead (blockBits final f))
    {n : Nat} (hn : f.btype = n) :
    s.Ahead [final, n.testBit 0, n.testBit 1] ∧ ∀ bt p, (s.noted final bt p).Ahead f.body := by
  subst hn
  exact ⟨State.Ahead.left (m := f.body) h, fun bt p => State.Ahead.advance
    (l := [final, f.btype.testBit 0, f.btype.testBit 1]) (t := s.noted final bt p) h rfl rfl rfl⟩

section
variable {s : State} {final : Bool} (hp : s.phase = .blockHdr)
include hp

theorem elementStep_blockStored (h : s.Ahead [final, false, false]) :
    elementStep s = .next (s.noted final 0 .storedLen) :=
  (elementStep_of_decodeElem (decode_header hp h)).trans
    (headerElement_of_phase final 0 (fun t => { t with phase := .storedLen }) hp)

theorem elementStep_blockFixed (h : s.Ahead [final, true, false]) :
    elementStep s = .next (s.noted final 1 s.phase).loadFixed :=
  (elementStep_of_decodeElem (decode_header hp h)).trans
    (headerElement_of_phase final 1 State.loadFixed hp)

theorem elementStep_blockDynamic (h : s.Ahead [final, false, true]) :
    elementStep s = .next (s.noted final 2 .dynHdr) :=
  (elementStep_of_decodeElem (decode_header hp h)).trans
    (headerElement_of_phase final 2 (fun t => { t with phase := .dynHdr }) hp)

end

/-! ### Stored blocks (R246, R274) -/

/-- `LEN` and its complement at the cursor, behind the pad bits (R274). -/
theorem elementStep_storedLen {s : State} (hp : s.phase = .storedLen) {pad len : Nat} (hlen : len < 65536)
    (hpad : pad = alignPad s.rpos)
    (h : s.Ahead (List.replicate pad false ++ bitsOf len 16 ++ bitsOf (len ^^^ 0xFFFF) 16)) :
    elementStep s = .next (s.skipTo (pad + 32) (.storedData len)) := by
  have hvalue : (BitVec.ofNat 16 len).toNat = len := toNat_ofNat_of_lt hlen
  have hxor : (BitVec.ofNat 16 len ^^^ 0xFFFF).toNat = len ^^^ 0xFFFF := by
    rw [BitVec.toNat_xor, hvalue]
    rfl
  have hoff : alignPad s.ctx.off = pad := by
    rw [hpad]
    exact congrArg (fun n => (8 - n) % 8) (Nat.mod_mod _ _)
  have hdec := decode_storedLen (c := s.ctx) hp (len := BitVec.ofNat 16 len)
    (nlen := BitVec.ofNat 16 len ^^^ 0xFFFF) (bit := s.streamBit) (rem := s.remaining)
    (by rw [hvalue, hxor, hoff, ← List.append_assoc]; exact h)
  rw [elementStep_of_decodeElem hdec]
  refine (execStoredLen_accepted hp rfl).trans ?_
  have halign : s.alignR = s.skip pad := by
    have hmove : 8 * ((s.rpos + 7) / 8) = s.rpos + pad := by
      unfold alignPad at hpad
      omega
    unfold State.alignR State.skip
    rw [hmove]
  rw [hvalue, halign, State.skip_skip]
  rfl

/-- The bytes of a stored block are put out, and the block ends (R274). -/
theorem elementStep_storedData {s : State} {bytes : List Byte} (hp : s.phase = .storedData bytes.length)
    (h : s.Ahead (bytes.flatMap fun b => bitsOf b.toNat 8)) :
    elementStep s = .next ((s.skip (8 * bytes.length)).outBytes bytes).endBlock :=
  (elementStep_of_decodeElem (decode_storedData hp h)).trans (if_pos hp)

/-- A stored block is read back as its bytes (R246, R274). -/
theorem endsBlock_stored {s : State} {final : Bool} {w : Nat} {bytes : List Byte} {ts : List Token}
    (hp : s.phase = .blockHdr) (halign : s.wpos % 8 = 0) (hpad : storedPad w = alignPad (s.rpos + 3))
    (hlen : bytes.length < 65536) (h : s.Ahead (blockBits final (blockForm w bytes ts 0))) :
    ∃ t, EndsBlock s t (3 + (blockForm w bytes ts 0).body.length)
      { s.run with bfinal := final, btype := 0 } (s.outputBytes ++ bytes) := by
  obtain ⟨hheader, hbody⟩ := h.header (btype_blockForm w bytes ts (bt := 0) (by decide))
  have hheader : s.Ahead [final, false, false] := hheader
  let s₁ := s.noted final 0 .storedLen
  let s₂ := s₁.skipTo (storedPad w + 32) (.storedData bytes.length)
  have ha₁ : s₁.Ahead (storedBits w bytes) := hbody 0 .storedLen
  have ha₂ : s₂.Ahead (bytes.flatMap fun b => bitsOf b.toNat 8) := ha₁.skipTo (by simp)
  have h₁ : elementStep s = .next s₁ := elementStep_blockStored hp hheader
  have h₂ : elementStep s₁ = .next s₂ := elementStep_storedLen rfl hlen hpad ha₁.left
  have h₃ := elementStep_storedData (s := s₂) rfl ha₂
  have hbits : (blockForm w bytes ts 0).body.length = storedPad w + 32 + 8 * bytes.length :=
    length_storedBits w bytes
  rw [hbits]
  refine ⟨_, ((ElementSteps.single h₁).tail h₂).tail h₃, ?_, ?_, ?_, ?_⟩
  · rw [outBytes_frame]
    simp [s₂, s₁, ReadFrame, State.noted, State.skipTo, State.skip, Nat.add_assoc]
  · rw [outBytes_frame]
    rfl
  · rw [State.outBytes_wpos]
    exact (Nat.add_mul_mod_self_left _ _ _).trans halign
  · have hsame : (s₂.skip (8 * bytes.length)).outputBytes = s.outputBytes := by
      simp [s₂, s₁, outputBytes_noted]
    rw [outputBytes_outBytes (by exact halign), hsame]

/-! ### Fixed blocks (R250, R275) -/

/-- A fixed block is read back as its tokens (R250, R275, R280). -/
theorem endsBlock_fixed {s : State} {final : Bool} {w : Nat} {bytes : List Byte} {ts : List Token}
    (hp : s.phase = .blockHdr) (halign : s.wpos % 8 = 0) (hfit : TokensFit s.window s.outputBytes ts)
    (h : s.Ahead (blockBits final (blockForm w bytes ts 1))) :
    ∃ t, EndsBlock s t (3 + (blockForm w bytes ts 1).body.length)
      { s.run with bfinal := final, btype := 1 } (expandTokens s.outputBytes ts) := by
  obtain ⟨hheader, hbody⟩ := h.header (btype_blockForm w bytes ts (bt := 1) (by decide))
  have hheader : s.Ahead [final, true, false] := hheader
  have hbody : (s.noted final 1 s.phase).Ahead (tokensBits fixedLenLL fixedLenD ts) := hbody 1 s.phase
  have hstep := elementStep_blockFixed hp hheader
  have hloaded := loadFixed_frame (s.noted final 1 s.phase)
  generalize (s.noted final 1 s.phase).loadFixed = t at hstep hloaded
  have hread : ReadFrame s t 3 := by
    rw [ReadFrame, hloaded]
    rfl
  have hin : t.InBlock .fixed fixedLenLL fixedLenD := by
    refine ⟨blockCodes_fixed, ?_, ?_, ?_⟩ <;> rw [hloaded]
    · rfl
    · rfl
    · exact halign
  have hsame : t.outputBytes = s.outputBytes := by
    refine outputBytes_congr ?_ ?_ <;> rw [hloaded] <;> rfl
  have hahead : t.Ahead (tokensBits fixedLenLL fixedLenD ts) :=
    hbody.advance (l := []) (by rw [hloaded]) (by rw [hloaded]) (by rw [hloaded]; rfl)
  rw [← hread.window, ← hsame] at hfit
  have hused : ∀ tok ∈ ts, TokenUsed fixedLenLL fixedLenD tok := fun tok hmem =>
    (tokenFits_of_mem hfit hmem).elim fun _ hfits => tokenUsed_fixed hfits
  obtain ⟨u, hu⟩ := endsBlock_tokens hin (by rw [hloaded]) hfit hused hahead
  have hrun : t.run = { s.run with bfinal := final, btype := 1 } := by
    rw [hloaded]
    rfl
  rw [hsame, hrun] at hu
  exact ⟨u, hu.head (.single hstep) hread⟩

end Sys2Proof.Machine

/-! ## The header of a dynamic block as the decoder needs it (R251 to R254, R276 to R279) -/

namespace Sys2Proof.Machine

/-! ### The entries sent (R251, R253) -/

theorem le_trimmedCount (lo : Nat) (l : List Nat) : lo ≤ trimmedCount lo l := Nat.le_max_left ..

/-- The entries that are not sent are zeros. -/
theorem getD_of_trimmedCount_le {lo : Nat} {l : List Nat} {i : Nat} (h : trimmedCount lo l ≤ i) :
    l.getD i 0 = 0 := by
  obtain ⟨hrun, -⟩ := takeWhile_spec (· = 0) l.reverse
  have hcount : l.length - (l.reverse.takeWhile (· = 0)).length ≤ i := (Nat.le_max_right ..).trans h
  by_cases hi : i < l.length
  · have hzero := hrun (l.length - 1 - i) (by omega)
    rw [List.getD_eq_getElem _ _ (by simp; omega), List.getElem_reverse, decide_eq_true_eq] at hzero
    rw [List.getD_eq_getElem _ _ hi, ← hzero]
    congr 1
    omega
  · exact List.getD_eq_default _ _ (Nat.le_of_not_lt hi)

/-- Trailing zeros are not sent. -/
theorem trimmedCount_le_of_zeros {lo n : Nat} {l : List Nat} (hlo : lo ≤ n)
    (h : ∀ i, n ≤ i → l.getD i 0 = 0) : trimmedCount lo l ≤ n := by
  obtain ⟨-, hstop⟩ := takeWhile_spec (· = 0) l.reverse
  refine Nat.max_le.2 ⟨hlo, ?_⟩
  by_contra hlt
  have hin : (l.reverse.takeWhile (· = 0)).length < l.reverse.length := by
    rw [List.length_reverse]
    omega
  have hne := hstop hin
  rw [List.getD_eq_getElem _ _ hin, List.getElem_reverse, decide_eq_false_iff_not] at hne
  refine hne (Eq.trans ?_ (h (l.length - 1 - (l.reverse.takeWhile (· = 0)).length) (by omega)))
  rw [List.getD_eq_getElem]

/-- What is sent, with the zeros that are not, is the whole list. -/
theorem take_trimmedCount_append (lo : Nat) (l : List Nat) :
    l.take (trimmedCount lo l) ++ List.replicate (l.length - trimmedCount lo l) 0 = l := by
  refine (congrArg _ (List.eq_replicate_iff.2 ⟨List.length_drop, fun n hn => ?_⟩).symm).trans
    (List.take_append_drop (trimmedCount lo l) l)
  obtain ⟨i, hi, rfl⟩ := List.getElem_of_mem hn
  rw [List.getElem_drop, ← List.getD_eq_getElem _ 0]
  exact getD_of_trimmedCount_le (Nat.le_add_right _ _)

/-! ### The pairs of `CLSeq` (R109, R252) -/

/-- A code-length symbol with a value that its extra bits hold. -/
def PairFits (p : Nat × Nat) : Prop := p.1 < 19 ∧ p.2 < 2 ^ clExtra p.1

theorem pairFits_of_mem_clRepeats {fuel run : Nat} {p : Nat × Nat} (h : p ∈ (clRepeats fuel run).1) :
    PairFits p := by
  induction fuel generalizing run with
  | zero => cases h
  | succ fuel ih =>
    unfold clRepeats at h
    split_ifs at h
    · cases h
    · rcases List.mem_cons.1 h with rfl | h
      · exact ⟨show 16 < 19 by decide, show min run 6 - 3 < 4 by omega⟩
      · exact ih h

theorem clExtra_of_le {v : Nat} (h : v ≤ 15) : clExtra v = 0 := by
  unfold clExtra
  rw [if_neg (by omega), if_neg (by omega), if_neg (by omega)]

/-- The pairs of legal lengths fit, and the first does not repeat what is not there (R252). -/
theorem clSequence_fits {fuel : Nat} {seq : List Nat} (hseq : ∀ n ∈ seq, n ≤ 15) :
    (∀ p ∈ clSequence fuel seq, PairFits p) ∧ ∀ p ∈ (clSequence fuel seq).head?, p.1 ≠ 16 := by
  induction fuel generalizing seq with
  | zero => exact ⟨nofun, nofun⟩
  | succ fuel ih =>
    match seq with
    | [] => exact ⟨nofun, nofun⟩
    | v :: t =>
      have hrest : ∀ {k p}, p ∈ clSequence fuel (t.drop k) → PairFits p := fun hp =>
        (ih fun n hn => hseq n (List.mem_cons_of_mem _ (List.mem_of_mem_drop hn))).1 _ hp
      have hpair : ∀ {q l}, PairFits q → q.1 ≠ 16 → (∀ p ∈ l, PairFits p) →
          (∀ p ∈ q :: l, PairFits p) ∧ ∀ p ∈ (q :: l).head?, p.1 ≠ 16 := fun hq hne hl =>
        ⟨List.forall_mem_cons.2 ⟨hq, hl⟩, fun p hp => by
          rw [List.head?_cons, Option.mem_some_iff] at hp
          exact hp ▸ hne⟩
      have hdrop : ∀ n, 0 < n → (v :: t).drop n = t.drop (n - 1) := fun n hn => by
        rw [← Nat.succ_pred_eq_of_pos hn]
        rfl
      unfold clSequence
      simp only
      split_ifs with hv h11 h3
      · rw [hdrop _ (by omega)]
        exact hpair ⟨show 18 < 19 by decide, show _ < 128 by omega⟩ (show 18 ≠ 16 by decide) fun p => hrest
      · rw [hdrop _ (by omega)]
        exact hpair ⟨show 17 < 19 by decide, show _ < 8 by omega⟩ (show 17 ≠ 16 by decide) fun p => hrest
      · exact hpair ⟨by decide, by decide⟩ (by decide) fun p => hrest (k := 0)
      · have hle : v ≤ 15 := hseq v List.mem_cons_self
        refine hpair ⟨show v < 19 by omega, ?_⟩ (show v ≠ 16 by omega) fun p hp => ?_
        · simp [clExtra_of_le hle]
        · exact (List.mem_append.1 hp).elim pairFits_of_mem_clRepeats hrest

theorem length_expandPair (lens : List Nat) (p : Nat × Nat) : lens.length < (expandPair lens p).length := by
  unfold expandPair
  split_ifs <;> simp

theorem length_foldl_expandPair (pairs : List (Nat × Nat)) (lens : List Nat) :
    lens.length + pairs.length ≤ (pairs.foldl expandPair lens).length := by
  induction pairs generalizing lens with
  | nil => exact le_rfl
  | cons p pairs ih =>
    have hfirst := length_expandPair lens p
    have hrest := ih (expandPair lens p)
    rw [List.foldl_cons, List.length_cons]
    omega

/-! ### `DynPlan` -/

/-- The lengths a dynamic block's header sends (R252). -/
def DynPlan.seq (p : DynPlan) : List Nat := p.ll.take p.nl ++ p.d.take p.nd

section
variable (ts : List Token)

theorem dynPlan_pairs : (dynPlan ts).pairs = clSequence (dynPlan ts).seq.length (dynPlan ts).seq := by
  simp only [DynPlan.seq, dynPlan]

theorem dynPlan_cl :
    (dynPlan ts).cl = codeLengths .cl (symbolCounts 19 ((dynPlan ts).pairs.map (·.1))) := by
  simp only [dynPlan]

theorem acceptedLens_dynPlan_cl : AcceptedLens .cl (dynPlan ts).cl := by
  rw [dynPlan_cl]
  exact acceptedLens_codeLengths (length_symbolCounts ..)

/-- The counts a dynamic block's header sends are in range (R251, R276). -/
theorem dynPlan_nl : 257 ≤ (dynPlan ts).nl ∧ (dynPlan ts).nl ≤ 286 :=
  ⟨le_trimmedCount .., trimmedCount_le_of_zeros (by decide) fun _ =>
    codeLengths_eq_zero (length_tokenFreqLL ts)⟩

theorem dynPlan_nd : 1 ≤ (dynPlan ts).nd ∧ (dynPlan ts).nd ≤ 30 :=
  ⟨le_trimmedCount .., trimmedCount_le_of_zeros (by decide) fun _ =>
    codeLengths_eq_zero (length_tokenFreqD ts)⟩

theorem dynPlan_nc : 4 ≤ (dynPlan ts).nc ∧ (dynPlan ts).nc ≤ 19 := ⟨le_trimmedCount .., nc_dynPlan_le ts⟩

/-- A length of the code-length code that is not sent is 0 (R253). -/
theorem dynPlan_cl_unsent {i : Nat} (hi : i < 19) (h : i ∉ clOrder.take (dynPlan ts).nc) :
    (dynPlan ts).cl.getD i 0 = 0 := by
  have hmem : i ∈ clOrder := by
    have hall : ∀ i < 19, i ∈ clOrder := by decide
    exact hall i hi
  obtain ⟨k, hk, rfl⟩ := List.getElem_of_mem hmem
  have hle : (dynPlan ts).nc ≤ k := by
    by_contra hlt
    exact h (List.mem_take_iff_getElem.2 ⟨k, by omega, rfl⟩)
  have hzero := getD_of_trimmedCount_le (l := clOrder.map fun s => (dynPlan ts).cl.getD s 0) hle
  rwa [List.getD_eq_getElem _ _ (by simpa using hk), List.getElem_map] at hzero

theorem length_dynPlan_seq : (dynPlan ts).seq.length = (dynPlan ts).nl + (dynPlan ts).nd := by
  have hll : (dynPlan ts).ll.length = 288 := length_codeLengths ..
  have hd : (dynPlan ts).d.length = 32 := length_codeLengths ..
  obtain ⟨-, hnl⟩ := dynPlan_nl ts
  obtain ⟨-, hnd⟩ := dynPlan_nd ts
  rw [DynPlan.seq, List.length_append, List.length_take_of_le (by omega), List.length_take_of_le (by omega)]

/-- The lengths sent, with zeros for the others, are the block's (R251, R279). -/
theorem sentLensLL_dynPlan : sentLensLL (dynPlan ts).nl (dynPlan ts).seq = (dynPlan ts).ll := by
  have hll : (dynPlan ts).ll.length = 288 := length_codeLengths ..
  obtain ⟨-, hnl⟩ := dynPlan_nl ts
  rw [sentLensLL, DynPlan.seq, List.take_append_of_le_length (by rw [List.length_take]; omega), List.take_take,
    Nat.min_self, ← hll]
  exact take_trimmedCount_append 257 _

theorem sentLensD_dynPlan : sentLensD (dynPlan ts).nl (dynPlan ts).seq = (dynPlan ts).d := by
  have hll : (dynPlan ts).ll.length = 288 := length_codeLengths ..
  have hd : (dynPlan ts).d.length = 32 := length_codeLengths ..
  obtain ⟨-, hnl⟩ := dynPlan_nl ts
  rw [sentLensD, length_dynPlan_seq, Nat.add_sub_cancel_left, DynPlan.seq,
    List.drop_left' (List.length_take_of_le (by omega)), ← hd]
  exact take_trimmedCount_append 1 _

theorem dynPlan_seq_le : ∀ n ∈ (dynPlan ts).seq, n ≤ 15 := by
  intro n hn
  rcases List.mem_append.1 hn with hn | hn
  · exact (blockCodes_dynPlan ts).acceptedLL.le n (List.mem_of_mem_take hn)
  · exact (blockCodes_dynPlan ts).acceptedD.le n (List.mem_of_mem_take hn)

theorem foldl_dynPlan_pairs : (dynPlan ts).pairs.foldl expandPair [] = (dynPlan ts).seq :=
  dynPlan_pairs_expand ts rfl (dynPlan_seq_le ts)

theorem dynPlan_pairs_fit : (∀ p ∈ (dynPlan ts).pairs, PairFits p) ∧
    ∀ p ∈ (dynPlan ts).pairs.head?, p.1 ≠ 16 := by
  rw [dynPlan_pairs]
  exact clSequence_fits (dynPlan_seq_le ts)

/-- The code-length code has codewords for its pairs (R253). -/
theorem dynPlan_pairs_used {p : Nat × Nat} (h : p ∈ (dynPlan ts).pairs) : 0 < (dynPlan ts).cl.getD p.1 0 := by
  obtain ⟨hfit, -⟩ := dynPlan_pairs_fit ts
  rw [dynPlan_cl]
  exact codeLengths_pos (length_symbolCounts ..) (symbolCounts_pos (hfit p h).1 (List.mem_map_of_mem h))

end

end Sys2Proof.Machine

/-! ## A dynamic block read back (R254, R257(b), R276 to R279) -/

namespace Sys2Proof.Machine

/-! ### The code-length code (R276, R277) -/

/-- The first `j` fields of the code-length code have been read; the other lengths are 0 (R277). -/
def ClLensRead (cl : List Nat) (j : Nat) (s : State) : Prop :=
  ∀ i < 19, s.lenAt .cl i = if i ∈ clOrder.take j then cl.getD i 0 else 0

theorem clLensRead_zero (cl : List Nat) (s : State) :
    ClLensRead cl 0 (s.setLens .cl (List.replicate 19 0)) := by
  intro i hi
  rw [lenAt_eq_getD_lens _ (a := .cl) hi, lens_setLens_self s rfl (by decide), List.getD_replicate _ hi]
  rfl

/-- The counts of a dynamic block (R276). -/
theorem elementStep_dynHdr {s : State} (hp : s.phase = .dynHdr) {nl nd nc : Nat}
    (hnl : 257 ≤ nl ∧ nl ≤ 286) (hnd : 1 ≤ nd ∧ nd ≤ 30) (hnc : 4 ≤ nc ∧ nc ≤ 19) (cl : List Nat)
    (h : s.Ahead (bitsOf (nl - 257) 5 ++ bitsOf (nd - 1) 5 ++ bitsOf (nc - 4) 4)) :
    ∃ t, elementStep s = .next t ∧
      t = { s with rpos := s.rpos + 14, lenCL := t.lenCL, phase := .dynClLen nl nd nc 0 } ∧
      ClLensRead cl 0 t := by
  have hl : (BitVec.ofNat 5 (nl - 257)).toNat = nl - 257 := toNat_ofNat_of_lt (by omega)
  have hd : (BitVec.ofNat 5 (nd - 1)).toNat = nd - 1 := toNat_ofNat_of_lt (by omega)
  have hc : (BitVec.ofNat 4 (nc - 4)).toNat = nc - 4 := toNat_ofNat_of_lt (by omega)
  have hdec := decode_dynHdr (c := s.ctx) hp (hlit := BitVec.ofNat 5 (nl - 257))
    (hdist := BitVec.ofNat 5 (nd - 1)) (hclen := BitVec.ofNat 4 (nc - 4)) (bit := s.streamBit)
    (rem := s.remaining) (by rw [hl, hd, hc, ← List.append_assoc]; exact h)
  have hexec := execDynHdr_accepted (BitVec.ofNat 4 (nc - 4)) hp
    (hlit := BitVec.ofNat 5 (nl - 257)) (hdist := BitVec.ofNat 5 (nd - 1)) (by omega)
  rw [hl, hd, hc, Nat.sub_add_cancel hnl.1, Nat.sub_add_cancel hnd.1, Nat.sub_add_cancel hnc.1] at hexec
  exact ⟨_, (elementStep_of_decodeElem hdec).trans hexec, rfl, clLensRead_zero cl (s.skip 14)⟩

/-- One length of the code-length code (R277). -/
theorem elementStep_dynClLen {s : State} {nl nd nc j v : Nat} (hp : s.phase = .dynClLen nl nd nc j)
    (hv : v < 8) (h : s.Ahead (bitsOf v 3)) : elementStep s = execDynClLen (BitVec.ofNat 3 v) s := by
  have hvalue : (BitVec.ofNat 3 v).toNat = v := toNat_ofNat_of_lt hv
  exact elementStep_of_decodeElem (decode_dynClLen hp (by rw [hvalue]; exact h))

theorem lenAt_withClLen (s : State) (j i : Nat) (v : BitVec 3) :
    (s.withClLen j v).lenAt .cl i = if i = clOrder.getD j 0 then v.toNat else s.lenAt .cl i := by
  split_ifs with h
  · rw [h]
    exact congrArg BitVec.toNat (Memory.read_write_self ..)
  · exact congrArg BitVec.toNat (Memory.read_write_of_ne _ _ _ h)

theorem ClLensRead.withClLen {cl : List Nat} {j : Nat} {s : State} (h : ClLensRead cl j s) (hj : j < 19)
    (hcl : ∀ n ∈ cl, n ≤ 7) :
    ClLensRead cl (j + 1) (s.withClLen j (BitVec.ofNat 3 (cl.getD (clOrder.getD j 0) 0))) := by
  intro i hi
  have hjlt : j < clOrder.length := hj
  have hmem : i ∈ clOrder.take (j + 1) ↔ i ∈ clOrder.take j ∨ i = clOrder.getD j 0 := by
    rw [List.take_succ_eq_append_getElem hjlt, List.mem_append, List.mem_singleton,
      List.getD_eq_getElem _ _ hjlt]
  rw [lenAt_withClLen, h i hi]
  by_cases heq : i = clOrder.getD j 0
  · rw [if_pos heq, if_pos (hmem.2 (.inr heq)), ← heq]
    refine toNat_ofNat_of_lt ?_
    by_cases hlt : i < cl.length
    · rw [List.getD_eq_getElem _ _ hlt]
      exact Nat.lt_succ_of_le (hcl _ (List.getElem_mem hlt))
    · rw [List.getD_eq_default _ _ (Nat.le_of_not_lt hlt)]
      decide
  · rw [if_neg heq]
    simp only [hmem, heq, or_false]

/-- Once all fields are read, `LEN_CL` is the code-length code, if the lengths not sent are 0 (R253). -/
theorem ClLensRead.lens {cl : List Nat} {nc : Nat} {s : State} (h : ClLensRead cl nc s)
    (hlen : cl.length = 19) (hunsent : ∀ i < 19, i ∉ clOrder.take nc → cl.getD i 0 = 0) :
    s.lens .cl = cl := by
  refine List.ext_getElem (by simp [hlen, Alphabet.nlen]) fun i hi hi' => ?_
  have hi19 : i < 19 := hlen ▸ hi'
  have hread := h i hi19
  rw [← List.getD_eq_getElem _ 0, ← lenAt_eq_getD_lens _ (a := .cl) hi19, hread,
    ← List.getD_eq_getElem _ 0 hi']
  split_ifs with hsent
  · rfl
  · exact (hunsent i hi19 hsent).symm

/-- The next field of the code-length code (R277). -/
theorem elementStep_clLens {cl : List Nat} {nl nd nc j : Nat} {s : State} (hacc : AcceptedLens .cl cl)
    (hp : s.phase = .dynClLen nl nd nc j) (hj : j < 19) (hread : ClLensRead cl j s)
    (h : s.Ahead (bitsOf (cl.getD (clOrder.getD j 0) 0) 3)) :
    ∃ v, elementStep s = execDynClLen v s ∧ ClLensRead cl (j + 1) (s.withClLen j v) :=
  ⟨_, elementStep_dynClLen hp (Nat.lt_succ_of_le (hacc.getD_le _)) h, hread.withClLen hj hacc.le⟩

theorem clLensBits_succ (cl : List Nat) {j m : Nat} (hj : j < 19) :
    ((clOrder.drop j).take (m + 1)).flatMap (fun i => bitsOf (cl.getD i 0) 3) =
      bitsOf (cl.getD (clOrder.getD j 0) 0) 3 ++
        ((clOrder.drop (j + 1)).take m).flatMap fun i => bitsOf (cl.getD i 0) 3 := by
  have hlt : j < clOrder.length := hj
  rw [List.drop_eq_getElem_cons hlt, List.take_succ_cons, List.flatMap_cons, List.getD_eq_getElem _ _ hlt]

/-- The fields of the code-length code are read, and its table is built (R277). -/
theorem elementSteps_clLens {cl : List Nat} {nl nd nc m j : Nat} {s : State} (hacc : AcceptedLens .cl cl)
    (hunsent : ∀ i < 19, i ∉ clOrder.take nc → cl.getD i 0 = 0)
    (hp : s.phase = .dynClLen nl nd nc j) (hj : j + (m + 1) = nc) (hnc : nc ≤ 19) (hread : ClLensRead cl j s)
    (h : s.Ahead (((clOrder.drop j).take (m + 1)).flatMap fun i => bitsOf (cl.getD i 0) 3)) :
    ∃ t, ElementSteps s t ∧ t = { s with
      rpos := s.rpos + 3 * (m + 1), lenCL := t.lenCL, dtblCL := builtTable .cl cl
      phase := .dynLens nl nd [] } := by
  induction m generalizing s j with
  | zero =>
    rw [clLensBits_succ cl (by omega)] at h
    obtain ⟨v, hstep, hread'⟩ := elementStep_clLens hacc hp (by omega) hread h.left
    have hlens : (s.withClLen j v).lens .cl = cl := ClLensRead.lens (hj ▸ hread') hacc.length hunsent
    have hbuilt := execDynClLen_built (v := v) hp (by omega) (hlens.symm ▸ hacc.accepted)
    rw [hlens] at hbuilt
    exact ⟨_, .single (hstep.trans hbuilt), rfl⟩
  | succ m ih =>
    rw [clLensBits_succ cl (by omega)] at h
    obtain ⟨v, hstep, hread'⟩ := elementStep_clLens hacc hp (by omega) hread h.left
    have hmore := execDynClLen_more v hp (by omega)
    obtain ⟨t, hsteps, ht⟩ := ih (s := { s.withClLen j v with phase := .dynClLen nl nd nc (j + 1) }) rfl
      (by omega) hread' (h.advance rfl rfl (by simp [State.withClLen]))
    refine ⟨t, (ElementSteps.single (hstep.trans hmore)).trans hsteps, ?_⟩
    rw [ht]
    simp [State.withClLen, State.skip, Nat.mul_add, Nat.add_assoc, Nat.add_comm]

/-! ### The code lengths (R278, R279) -/

/-- The bits of a code-length symbol with its extra bits (R254). -/
def pairBits (cl : List Nat) (p : Nat × Nat) : List Bool :=
  symBits (canonicalCodes 7 cl) cl p.1 ++ bitsOf p.2 (clExtra p.1)

theorem length_pairBits (cl : List Nat) (p : Nat × Nat) :
    (pairBits cl p).length = cl.getD p.1 0 + clExtra p.1 := by simp [pairBits]

section
variable {cl seq : List Nat} {nl nd : Nat} {s : State} {p : Nat × Nat}

/-- A code-length symbol at the cursor extends the lengths read (R278). -/
theorem elementStep_pair (hacc : AcceptedLens .cl cl) (ht : s.dtblCL = builtTable .cl cl)
    (hp : s.phase = .dynLens nl nd seq) (hfit : PairFits p) (hused : 0 < cl.getD p.1 0)
    (hrepeat : ¬(p.1 = 16 ∧ seq = [])) (h : s.Ahead (pairBits cl p)) {t : State}
    (hext : (s.skip (cl.getD p.1 0 + clExtra p.1)).extendLens nl nd (expandPair seq p) = .ok t) :
    elementStep s = .next t := by
  obtain ⟨hsym, hextra⟩ := hfit
  have hfits := h.fits
  rw [length_pairBits] at hfits
  have hdec := decodeSym_symBits hacc.table hused h.left
  have hfield : fieldAt s.streamBit (cl.getD p.1 0) (clExtra p.1) = p.2 := by
    have hbits := fieldAt_bitsOf (h.at_cursor.append).2
    rw [length_symBits, Nat.zero_add, Nat.mod_eq_of_lt hextra] at hbits
    exact hbits
  obtain ⟨i, hi⟩ : ∃ i, clElem p.1 (cl.getD p.1 0) p.2 = some i :=
    ⟨_, List.getElem?_eq_getElem (i := p.1) (by simpa using hsym)⟩
  have hfields := clElem_fields hi
  have hlen : cl.getD p.1 0 < 16 := (hacc.getD_le p.1).trans_lt (by decide)
  rw [Nat.mod_eq_of_lt hextra, Nat.mod_eq_of_lt hlen] at hfields
  have helem : decodeElem s.ctx s.streamBit s.remaining = .ok (i, cl.getD p.1 0 + clExtra p.1) := by
    simp only [decodeElem, State.ctx, hp, decodeClElem, ht, hdec, if_neg hrepeat,
      if_neg (Nat.not_lt.2 hfits), hfield, hi, elemOr]
  rw [elementStep_of_decodeElem helem, execElement_of_clFields hfields, clElement_of_ok hp hrepeat hext]

/-- The last code-length symbol loads the block's tables (R279). -/
theorem loadDynamic_of_blockCodes {full : List Nat} (s : State)
    (h : BlockCodes .dynamic (sentLensLL nl full) (sentLensD nl full)) :
    ∃ t, s.loadDynamic nl full = .ok t ∧ t = { s with
      lenLL := t.lenLL, lenD := t.lenD, dtblLL := builtTable .ll (sentLensLL nl full)
      dtblD := builtTable .d (sentLensD nl full), phase := .data .dynamic } :=
  ⟨_, loadDynamic_accepted s h.eob.ne' h.acceptedLL.accepted h.acceptedD.accepted, rfl⟩

/-- The code-length symbols are read, and the block's tables are loaded (R278, R279). -/
theorem elementSteps_pairs {pairs : List (Nat × Nat)} {full : List Nat} (hacc : AcceptedLens .cl cl)
    (hcodes : BlockCodes .dynamic (sentLensLL nl full) (sentLensD nl full))
    (hfull : full.length = nl + nd) (ht : s.dtblCL = builtTable .cl cl)
    (hp : s.phase = .dynLens nl nd seq) (hfit : ∀ p ∈ pairs, PairFits p ∧ 0 < cl.getD p.1 0)
    (hfirst : ∀ p ∈ pairs.head?, ¬(p.1 = 16 ∧ seq = [])) (hlen : seq.length < nl + nd)
    (hfold : pairs.foldl expandPair seq = full) (h : s.Ahead (pairs.flatMap (pairBits cl))) :
    ∃ t, ElementSteps s t ∧ t = { s with
      rpos := s.rpos + (pairs.flatMap (pairBits cl)).length, lenLL := t.lenLL, lenD := t.lenD
      dtblLL := builtTable .ll (sentLensLL nl full), dtblD := builtTable .d (sentLensD nl full)
      phase := .data .dynamic } := by
  induction pairs generalizing s seq with
  | nil =>
    have hseq : seq = full := hfold
    rw [hseq, hfull] at hlen
    exact absurd hlen (Nat.lt_irrefl _)
  | cons p pairs ih =>
    obtain ⟨hpfit, hpused⟩ := hfit p List.mem_cons_self
    rw [List.flatMap_cons] at h ⊢
    rw [List.foldl_cons] at hfold
    have hstep := fun t => elementStep_pair (t := t) hacc ht hp hpfit hpused (hfirst p rfl) h.left
    match pairs with
    | [] =>
      have hseq : expandPair seq p = full := hfold
      obtain ⟨t, hload, hframe⟩ :=
        loadDynamic_of_blockCodes (s.skip (cl.getD p.1 0 + clExtra p.1)) hcodes
      refine ⟨t, .single (hstep t ?_), ?_⟩
      · rw [hseq, extendLens_full _ hfull, hload]
      · rw [List.flatMap_nil, List.append_nil, length_pairBits, hframe]
        rfl
    | q :: rest =>
      have hmore : (expandPair seq p).length < nl + nd := by
        have hle := length_foldl_expandPair (q :: rest) (expandPair seq p)
        rw [hfold, hfull, List.length_cons] at hle
        omega
      have hne : expandPair seq p ≠ [] :=
        List.ne_nil_of_length_pos ((Nat.zero_le _).trans_lt (length_expandPair seq p))
      obtain ⟨t, hsteps, hframe⟩ := ih
        (s := { s.skip (cl.getD p.1 0 + clExtra p.1) with phase := .dynLens nl nd (expandPair seq p) })
        ht rfl (fun x hx => hfit x (List.mem_cons_of_mem _ hx)) (fun _ _ hnil => hne hnil.2) hmore hfold
        (h.advance rfl rfl (by rw [length_pairBits]; rfl))
      refine ⟨t, (ElementSteps.single (hstep _ (extendLens_more _ hmore))).trans hsteps, ?_⟩
      rw [hframe, List.length_append, length_pairBits, ← Nat.add_assoc]
      rfl

end

/-! ### The block -/

theorem dynHeaderBits_eq (p : DynPlan) : dynHeaderBits p =
    bitsOf (p.nl - 257) 5 ++ bitsOf (p.nd - 1) 5 ++ bitsOf (p.nc - 4) 4 ++
      ((clOrder.take p.nc).flatMap fun s => bitsOf (p.cl.getD s 0) 3) ++ p.pairs.flatMap (pairBits p.cl) := rfl

/-- What the header of a dynamic block has to say for the decoder to accept it (R276 to R279). -/
structure PlanSent (p : DynPlan) : Prop where
  nl : 257 ≤ p.nl ∧ p.nl ≤ 286
  nd : 1 ≤ p.nd ∧ p.nd ≤ 30
  nc : 4 ≤ p.nc ∧ p.nc ≤ 19
  acceptedCl : AcceptedLens .cl p.cl
  unsentCl : ∀ i < 19, i ∉ clOrder.take p.nc → p.cl.getD i 0 = 0
  pairsFit : ∀ q ∈ p.pairs, PairFits q ∧ 0 < p.cl.getD q.1 0
  pairsFirst : ∀ q ∈ p.pairs.head?, q.1 ≠ 16
  pairsSeq : p.pairs.foldl expandPair [] = p.seq
  lengthSeq : p.seq.length = p.nl + p.nd
  sentLL : sentLensLL p.nl p.seq = p.ll
  sentD : sentLensD p.nl p.seq = p.d
  codes : BlockCodes .dynamic p.ll p.d

theorem planSent_dynPlan (ts : List Token) : PlanSent (dynPlan ts) where
  nl := dynPlan_nl ts
  nd := dynPlan_nd ts
  nc := dynPlan_nc ts
  acceptedCl := acceptedLens_dynPlan_cl ts
  unsentCl := fun _ => dynPlan_cl_unsent ts
  pairsFit := fun q hq => ⟨(dynPlan_pairs_fit ts).1 q hq, dynPlan_pairs_used ts hq⟩
  pairsFirst := (dynPlan_pairs_fit ts).2
  pairsSeq := foldl_dynPlan_pairs ts
  lengthSeq := length_dynPlan_seq ts
  sentLL := sentLensLL_dynPlan ts
  sentD := sentLensD_dynPlan ts
  codes := blockCodes_dynPlan ts

/-- The header of a dynamic block is read back as its codes (R254, R276 to R279). -/
theorem elementSteps_dynHeader {s : State} {p : DynPlan} (hplan : PlanSent p) (hp : s.phase = .dynHdr)
    (h : s.Ahead (dynHeaderBits p)) :
    ∃ t, ElementSteps s t ∧ t = { s with
      rpos := s.rpos + (dynHeaderBits p).length, lenLL := t.lenLL, lenD := t.lenD, lenCL := t.lenCL
      dtblLL := builtTable .ll p.ll, dtblD := builtTable .d p.d, dtblCL := t.dtblCL
      phase := .data .dynamic } := by
  obtain ⟨hnc, hnc19⟩ := hplan.nc
  obtain ⟨hnd, -⟩ := hplan.nd
  obtain ⟨m, hm⟩ : ∃ m, p.nc = m + 1 := ⟨p.nc - 1, by omega⟩
  have hcodes := hplan.codes
  rw [← hplan.sentLL, ← hplan.sentD] at hcodes
  rw [dynHeaderBits_eq] at h
  obtain ⟨t₁, h₁, hframe₁, hread₁⟩ :=
    elementStep_dynHdr hp hplan.nl hplan.nd hplan.nc p.cl h.left.left
  rw [List.append_assoc] at h
  have ha₁ := h.advance (t := t₁) (by rw [hframe₁]) (by rw [hframe₁]) (by rw [hframe₁]; rfl)
  obtain ⟨t₂, h₂, hframe₂⟩ := elementSteps_clLens (m := m) (j := 0) hplan.acceptedCl hplan.unsentCl
    (by rw [hframe₁]) (by omega) hnc19 hread₁ (hm ▸ ha₁.left)
  have hbits : ((clOrder.take p.nc).flatMap fun s => bitsOf (p.cl.getD s 0) 3).length = 3 * (m + 1) := by
    rw [hm] at hnc19 ⊢
    simp [List.length_flatMap, Nat.min_eq_left (show m + 1 ≤ clOrder.length from hnc19), Nat.mul_comm]
  have ha₂ := ha₁.advance (t := t₂) (by rw [hframe₂]) (by rw [hframe₂]) (by rw [hframe₂, hbits])
  obtain ⟨t₃, h₃, hframe₃⟩ := elementSteps_pairs (seq := []) hplan.acceptedCl hcodes hplan.lengthSeq
    (by rw [hframe₂]) (by rw [hframe₂]) hplan.pairsFit (fun q hq hne => hplan.pairsFirst q hq hne.1)
    (by simp; omega) hplan.pairsSeq ha₂
  refine ⟨t₃, ((ElementSteps.single h₁).trans h₂).trans h₃, ?_⟩
  rw [hplan.sentLL, hplan.sentD] at hframe₃
  have hlength : s.rpos + 14 + 3 * (m + 1) + (p.pairs.flatMap (pairBits p.cl)).length =
      s.rpos + (dynHeaderBits p).length := by
    rw [dynHeaderBits_eq, List.length_append, List.length_append, hbits, ← Nat.add_assoc, ← Nat.add_assoc]
    simp
  rw [hframe₃, hframe₂, hframe₁]
  simp only [hlength]

/-- A dynamic block is read back as its tokens (R254, R280). -/
theorem endsBlock_dynamic {s : State} {final : Bool} {w : Nat} {bytes : List Byte} {ts : List Token}
    (hp : s.phase = .blockHdr) (halign : s.wpos % 8 = 0) (hfit : TokensFit s.window s.outputBytes ts)
    (h : s.Ahead (blockBits final (blockForm w bytes ts 2))) :
    ∃ t, EndsBlock s t (3 + (blockForm w bytes ts 2).body.length)
      { s.run with bfinal := final, btype := 2 } (expandTokens s.outputBytes ts) := by
  obtain ⟨hheader, hbody⟩ := h.header (btype_blockForm w bytes ts (bt := 2) (by decide))
  have hheader : s.Ahead [final, false, true] := hheader
  have hform : (blockForm w bytes ts 2).body =
      dynHeaderBits (dynPlan ts) ++ tokensBits (dynPlan ts).ll (dynPlan ts).d ts := by
    simp only [blockForm]
    rfl
  rw [hform] at hbody ⊢
  have hused : ∀ tok ∈ ts, TokenUsed (dynPlan ts).ll (dynPlan ts).d tok := fun tok hmem =>
    (tokenFits_of_mem hfit hmem).elim fun _ hfits => tokenUsed_dynPlan hmem hfits
  have hcodes := blockCodes_dynPlan ts
  have ha₁ := hbody 2 .dynHdr
  obtain ⟨t, hsteps, hframe⟩ := elementSteps_dynHeader (planSent_dynPlan ts) rfl ha₁.left
  generalize dynPlan ts = p at *
  have hread : ReadFrame s t (3 + (dynHeaderBits p).length) := by
    rw [ReadFrame, hframe]
    simp [State.noted, Nat.add_assoc]
  have ha₂ := ha₁.advance (t := t) (by rw [hframe]) (by rw [hframe]) (by rw [hframe])
  have hin : t.InBlock .dynamic p.ll p.d :=
    ⟨hcodes, by rw [hframe], by rw [hframe], by rw [hframe]; exact halign⟩
  have hsame : t.outputBytes = s.outputBytes :=
    outputBytes_congr (by rw [hframe]; rfl) (by rw [hframe]; rfl)
  have hrun : t.run = { s.run with bfinal := final, btype := 2 } := by
    rw [hframe]
    rfl
  rw [← hread.window, ← hsame] at hfit
  obtain ⟨u, hu⟩ := endsBlock_tokens hin (by rw [hframe]) hfit hused ha₂
  rw [hsame, hrun] at hu
  rw [List.length_append, ← Nat.add_assoc]
  exact ⟨u, hu.head ((ElementSteps.single (elementStep_blockDynamic hp hheader)).trans hsteps) hread⟩

end Sys2Proof.Machine

/-! ## `DECBLK` inverts `ENCBLK` (R257(b), R288) -/

namespace Sys2Proof.Machine

/-- A block of a chunk, of any type, is read back as the chunk (R251 to R254, R257(b)): after the input
before the chunk, the output is the input up to the chunk's end. -/
theorem endsBlock_blockForm {s : State} {cfg : MatchConfig} {inp : List Byte} {start endp w bt : Nat}
    {final : Bool} {ts : List Token} (hp : s.phase = .blockHdr) (halign : s.wpos % 8 = 0)
    (hwindow : cfg.window = s.window) (hwin : cfg.window ≤ 32768) (hstart : start ≤ endp)
    (hend : endp ≤ inp.length) (hchunk : endp - start < 65536) (hoff : w % 8 = s.rpos % 8)
    (hout : s.outputBytes = inp.take start) (hbt : bt ≤ 2)
    (hts : bt ≠ 0 → ts = tokenizeChunk cfg inp start endp)
    (h : s.Ahead (blockBits final (blockForm w ((inp.drop start).take (endp - start)) ts bt))) :
    ∃ t, EndsBlock s t (3 + (blockForm w ((inp.drop start).take (endp - start)) ts bt).body.length)
      { s.run with bfinal := final, btype := BitVec.ofNat 2 bt } (inp.take endp) := by
  have hfit : bt ≠ 0 → TokensFit s.window s.outputBytes ts := fun hne => by
    rw [hts hne, ← hwindow, hout]
    exact tokensFit_tokenizeFrom hwin hend
  have hexpand : bt ≠ 0 → expandTokens s.outputBytes ts = inp.take endp := fun hne => by
    rw [hts hne, hout]
    exact expandTokens_tokenizeFrom hwin hend hstart le_rfl
  obtain rfl | rfl | rfl : bt = 0 ∨ bt = 1 ∨ bt = 2 := by omega
  · have hbytes : s.outputBytes ++ (inp.drop start).take (endp - start) = inp.take endp := by
      rw [hout, ← List.take_add, Nat.add_sub_cancel' hstart]
    have hpad : storedPad w = alignPad (s.rpos + 3) := by
      unfold storedPad alignPad
      omega
    rw [← hbytes]
    exact endsBlock_stored hp halign hpad ((List.length_take_le _ _).trans_lt hchunk) h
  · rw [← hexpand (by decide)]
    exact endsBlock_fixed hp halign (hfit (by decide)) h
  · rw [← hexpand (by decide)]
    exact endsBlock_dynamic hp halign (hfit (by decide)) h

/-- The end of a block that `DECBLK` decodes (R282, R288). -/
theorem endBlock_of_single {t : State} (h : t.run.whole = false) : t.endBlock =
    ({ t.dropTables with
      res0 := if t.run.bfinal then 1 else 0, res1 := t.run.btype.setWidth 32, phase := .idle }).finish :=
  if_neg (by simp [h])

/-- `DECBLK` ends where the elements of its block lead (R270, R271). -/
theorem execDecblk_of_endsBlock {u t : State} {n : Nat} {r : DecodeRun} {out : List Byte}
    (hcfg : u.wbitsOk = true) (halign : u.wpos % 8 = 0)
    (h : EndsBlock u.begin.startBlock t n r out) (hr : r.whole = false) :
    execDecblk u = .next t.endBlock := by
  have hwhole : t.run.whole = false := h.run ▸ hr
  obtain ⟨v, hv, -, -⟩ := runElements_elementFuel (decodes_startBlock u.begin)
  have hidle : t.endBlock.phase = .idle := by rw [endBlock_of_single hwhole]; rfl
  rw [execDecblk, if_pos ⟨hcfg, halign⟩, hv, runElements_of_elementSteps h.steps hidle hv]

theorem take_inputBytes {s : State} {n : Nat} (h : n ≤ s.ilen) :
    s.inputBytes.take n = (List.range n).map s.ibufAt := by
  rw [State.inputBytes, Memory.readRun, ← List.map_take, List.take_range, Nat.min_eq_left h]
  exact List.map_congr_left fun i _ => by rw [Nat.zero_add]; rfl

/-- An output that is a start of the input, byte by byte. -/
theorem outputBytes_eq_take_iff {s t : State} {n : Nat} (h : n ≤ s.ilen) :
    t.outputBytes = s.inputBytes.take n ↔ t.olen = n ∧ ∀ i < n, t.obufAt i = s.ibufAt i := by
  rw [take_inputBytes h, outputBytes_eq]
  constructor
  · intro heq
    have hlen : t.olen = n := by simpa using congrArg List.length heq
    rw [hlen] at heq
    exact ⟨hlen, fun i hi => List.map_inj_left.1 heq i (List.mem_range.2 hi)⟩
  · rintro ⟨hlen, hbytes⟩
    rw [hlen]
    exact List.map_congr_left fun i hi => hbytes i (List.mem_range.1 hi)

/-- The bits `ENCBLK` wrote stand at the cursor of an input that holds them (R63). -/
theorem ahead_of_encblkState {s u : State} (hpad : s.PadZero) (bt : Nat) (hrpos : u.rpos = s.wpos)
    (hfits : (encblkState s bt).wpos ≤ 8 * u.ilen)
    (hbits : ∀ p, s.wpos ≤ p → p < (encblkState s bt).wpos →
      (u.ibufAt (p / 8)).getLsbD (p % 8) = ((encblkState s bt).obufAt (p / 8)).getLsbD (p % 8)) :
    u.Ahead (blockBits (s.arg2 == 1) (encblkForm s bt)) := by
  obtain ⟨hsize, -⟩ := size_encblkForm s bt
  rw [encblkState_wpos] at hfits hbits
  refine ⟨by rw [State.remaining_eq]; omega, fun k hk => ?_⟩
  rw [Nat.zero_add, State.streamBit, hrpos, hbits (s.wpos + k) (by omega) (by omega)]
  exact bitsAt_encblkState hpad bt k hk

theorem blockTokenised_of_mem {sel bt : Nat} {s : State} (hmem : bt ∈ blockCandidates sel s)
    (hbt : bt ≤ 2) (hne : bt ≠ 0) : blockTokenised sel s = true := by
  obtain rfl | rfl : bt = 1 ∨ bt = 2 := by omega
  · simp [blockTokenised, hmem]
  · simp [blockTokenised, hmem]

/-- A final flag, reported (R240, R288). -/
theorem ite_one_of_le_one {v : BitVec 32} (h : v.toNat ≤ 1) : (if v == 1 then 1 else 0) = v := by
  by_cases hone : v = 1
  · simp [hone]
  · have hne : v.toNat ≠ 1 := fun heq => hone (BitVec.eq_of_toNat_eq heq)
    have hzero : v = 0 := BitVec.eq_of_toNat_eq (show v.toNat = 0 by omega)
    simp [hzero]

/-- A block type, reported (R288). -/
theorem setWidth_ofNat_of_le_two {bt : Nat} (h : bt ≤ 2) :
    (BitVec.ofNat 2 bt).setWidth 32 = BitVec.ofNat 32 bt := by
  obtain rfl | rfl | rfl : bt = 0 ∨ bt = 1 ∨ bt = 2 := by omega
  · rfl
  · rfl
  · rfl

/-- Settles O43: the bits of the block are read back element by element (`endsBlock_blockForm`), and
`DECBLK` ends where its elements lead. -/
theorem blockRoundTrip : Obligations.BlockRoundTrip := by
  intro s t u hcfg hrange hfinal hsel hpad hexec hbits hrpos hfits hsame hwpos hhistory
  obtain ⟨bt, hmem, hbt, -, hencblk⟩ := execEncblk_accepted hcfg hrange hfinal hsel
  obtain rfl : encblkState s bt = t := Host.Outcome.next.inj (hencblk.symm.trans hexec)
  obtain ⟨hstart, hend, hchunk⟩ := (chunkRangeOk_iff s).1 hrange
  obtain ⟨-, hwbits, -⟩ := (configOk_iff s).1 hcfg
  have hwindow : u.window = s.window := by rw [State.window, State.window, hbits]
  have halign : u.wpos % 8 = 0 := by omega
  have holen : u.olen = s.arg0.toNat := by rw [State.olen_eq]; omega
  have hout : u.outputBytes = s.inputBytes.take s.arg0.toNat :=
    (outputBytes_eq_take_iff (hstart.trans hend)).2 ⟨holen, hhistory⟩
  have hahead : u.begin.startBlock.Ahead (blockBits (s.arg2 == 1) (encblkForm s bt)) :=
    ahead_of_encblkState (u := u.begin.startBlock) hpad bt hrpos hfits hsame
  have hinput : s.arg1.toNat ≤ s.inputBytes.length := by rwa [State.inputBytes, Memory.length_readRun]
  obtain ⟨v, hv⟩ := endsBlock_blockForm (s := u.begin.startBlock) (cfg := s.matchConfig) rfl halign
    hwindow.symm (window_le_of_configOk hcfg) hstart hinput (by omega) (congrArg (· % 8) hrpos.symm) hout
    hbt (fun hne => if_pos (blockTokenised_of_mem hmem hbt hne)) hahead
  have hdecblk := execDecblk_of_endsBlock (u := u) (by rw [wbitsOk_iff, hbits]; exact hwbits) halign hv rfl
  have hwhole : v.run.whole = false := by rw [hv.run]; rfl
  rw [endBlock_of_single hwhole, hv.run] at hdecblk
  refine ⟨_, hdecblk, rfl, ?_, ?_, ?_, (outputBytes_eq_take_iff hend).1 ?_⟩
  · exact ite_one_of_le_one hfinal
  · exact setWidth_ofNat_of_le_two hbt
  · refine hv.frame.rpos.trans ?_
    obtain ⟨-, hsize⟩ := size_encblkForm s bt
    rw [encblkState_wpos, hsize]
    exact congrArg (· + (3 + (encblkForm s bt).body.length)) hrpos
  · exact (outputBytes_congr rfl rfl).trans hv.output

/-- Settles O42: `blockRoundTrip` for the selector that forces a Fixed block. -/
theorem fixedBlockRoundTrip : Obligations.FixedBlockRoundTrip := by
  intro s t u hcfg hrange hfinal hforced hpad hexec hbits hrpos hfits hsame hwpos hhistory
  have hsel : s.arg3.toNat = 1 := congrArg BitVec.toNat hforced
  obtain ⟨bt, hmem, -, -, hencblk⟩ := execEncblk_accepted hcfg hrange hfinal (by omega)
  have htype : t.res0 = 1 := by
    rw [blockCandidates, hsel, if_neg (by decide), List.mem_singleton] at hmem
    obtain rfl : encblkState s bt = t := Host.Outcome.next.inj (hencblk.symm.trans hexec)
    rw [hmem]
    rfl
  have hround := blockRoundTrip s t u hcfg hrange hfinal (by omega) hpad hexec hbits hrpos hfits hsame
    hwpos hhistory
  rwa [htype] at hround

end Sys2Proof.Machine

/-! ## No step stops with a fault (R288(c), R316, R354)

Inside a decode command `exists_elementStep` gives the next state. Between commands every command is a
`command` step, or runs elements within their bound (`runElements_elementFuel`). -/

namespace Sys2Proof.Machine

section
variable {s : State}

theorem hostAccess_ne_fault (x : HostTxn) (s : State) (f : Fault) : hostAccess x s ≠ .fault f := by
  intro h
  unfold hostAccess at h
  split at h <;> split at h <;> cases h

/-- `DECBLK` ends with a next state, whatever the state is (R288(c)). -/
theorem exists_execDecblk (s : State) : ∃ t, execDecblk s = .next t := by
  by_cases hok : s.wbitsOk = true ∧ s.wpos % 8 = 0
  · obtain ⟨t, ht, -, -⟩ := runElements_elementFuel (decodes_startBlock s.begin)
    exact ⟨t, (if_pos hok).trans ht⟩
  · exact ⟨_, execDecblk_refused hok⟩

/-- `DECOMPRESS` ends with a next state, whatever the state is (R316). -/
theorem exists_execDecompress (s : State) : ∃ t, execDecompress s = .next t := by
  cases hok : s.decodeConfigOk with
  | true =>
    obtain ⟨t, ht, -, -⟩ := runElements_elementFuel (decodes_startStream s.begin)
    exact ⟨t, (if_pos hok).trans ht⟩
  | false => exact ⟨_, execDecompress_refused hok⟩

/-- Every command and pseudo-command ends with a next state: the `command` step always answers one, and
so do the elements of a decode command. -/
theorem exists_exec {i : Instr} (hi : (encodeHost i).isSome = true) (s : State) :
    ∃ t, exec i s = .next t := by
  cases i with
  | decblk => exact exists_execDecblk s
  | decompress => exact exists_execDecompress s
  | zdecompress => exact exists_execDecompress (s.setFraming 1)
  | rawdecompress => exact exists_execDecompress (s.setFraming 0)
  | compress | zcompress | rawcompress | bitinit | wrbits | rdbits | alignw | alignr | hbuild | hcanon
  | hput | hdbuild | hdsym | mfind | tokenize | encblk | adler32 | reservedCmd => exact ⟨_, rfl⟩
  | _ => cases hi

theorem ne_fault_of_exists_next {o : Host.Outcome State Fault Refusal} (h : ∃ t, o = .next t)
    (f : Fault) : o ≠ .fault f := by
  obtain ⟨t, rfl⟩ := h
  nofun

/-- Between commands a step waits, refuses, runs a command or performs a host access. -/
theorem step_ne_fault_of_idle (hp : s.phase = .idle) (f : Fault) : step s ≠ .fault f := by
  unfold step
  rw [if_pos hp]
  split_ifs with hhost hbusy
  · nofun
  · nofun
  · split
    · next hd => exact ne_fault_of_exists_next (exists_exec (encodeHost_of_decodeHost hd) _) f
    · split
      · exact hostAccess_ne_fault _ _ f
      · nofun

/-- Settles O5: inside a decode command the element at the cursor is one of the current mode, which has a
next state; between commands no command faults, since the elements of a decode command come to an end. -/
theorem stepNeverFaults : Obligations.StepNeverFaults := by
  intro s f
  by_cases hp : s.phase = .idle
  · exact step_ne_fault_of_idle hp f
  · rw [step_of_decoding hp]
    exact ne_fault_of_exists_next (exists_elementStep hp) f

end
end Sys2Proof.Machine

/-! ## Errors and the end of a block inside a decode command (R270, R282 to R284, R310, R314, R315) -/

namespace Sys2Proof.Machine

/-! ### What an error keeps -/

/-- A byte that something wrote reads as it. -/
theorem obufAt_of_findCell {s : State} {a : Nat} {v : Byte} (h : findCell s.obuf.cells a = some v) :
    s.obufAt a = v := by
  rw [State.obufAt, Memory.read, h]

/-- `DECBLK`'s former output survives an error (R270, assumption log 5). -/
theorem obufAt_raiseDecode {e : HwError} {s : State} (hblock : s.run.whole = false) {a : Nat} {v : Byte}
    (ha : a < s.run.base) (hv : findCell s.obuf.cells a = some v) : (s.raiseDecode e).obufAt a = v := by
  by_cases he : e = .invalidConfig
  · subst he
    exact obufAt_of_findCell hv
  · have hkeep : s.decodeKeep.obufBelow = s.run.base := by simp [State.decodeKeep, hblock]
    rw [raiseDecode_of_ne s he]
    exact Memory.read_keepBelow _ _ _ _ _ _ (hkeep ▸ ha) hv

/-- The checksum of a raw `DECOMPRESS` survives an error (R310, R330, assumption log 5). -/
theorem adler_raiseDecode {e : HwError} {s : State} (hwhole : s.run.whole = true)
    (hraw : s.cfgFraming ≠ 1) : (s.raiseDecode e).adler = s.adler := by
  by_cases he : e = .invalidConfig
  · subst he
    rfl
  · have hkeep : s.decodeKeep.adler = true := by
      rw [State.decodeKeep, if_pos hwhole]
      exact bne_iff_ne.2 hraw
    rw [raiseDecode_of_ne s he]
    exact if_pos hkeep

theorem keptByDecodeCommand_raiseDecode (e : HwError) (s : State) :
    keptByDecodeCommand s (s.raiseDecode e) :=
  ⟨fun hblock _ _ ha hv => obufAt_raiseDecode hblock ha hv, adler_raiseDecode⟩

/-- Settles O53: each of the three elements is `raiseDecode` in its own mode. -/
theorem invalidSymbols : Obligations.InvalidSymbols := by
  intro i s h
  have hexec : exec i s = .next (s.raiseDecode .invalidHuffmanCode) := by
    rcases h with ⟨sym, rfl, hp⟩ | ⟨rfl, k, len, hp⟩ | ⟨rfl, k, len, hp⟩
    · exact if_pos hp
    · exact distInvalidElement_of_phase hp
    · exact distInvalidElement_of_phase hp
  exact ⟨_, hexec, keptAfterDecodeError_raiseDecode s nofun, keptByDecodeCommand_raiseDecode _ s⟩

/-! ### The end of a block -/

section
variable {t : State} (hwhole : t.run.whole = true)
include hwhole

/-- `DECOMPRESS` goes on to the next block's header (R310). -/
theorem endBlock_of_notFinal (hfinal : t.run.bfinal = false) :
    t.endBlock = { t with phase := .blockHdr } := by
  simp [State.endBlock, hwhole, hfinal]

/-- A framed stream's trailer follows the final block (R314, R333). -/
theorem endBlock_of_framed (hfinal : t.run.bfinal = true) (hframed : t.cfgFraming = 1) :
    t.endBlock = { t.alignR with phase := .zlibAdler } := by
  simp [State.endBlock, hwhole, hfinal, hframed]

/-- A raw stream ends with the final block (R315). -/
theorem endBlock_of_raw (hfinal : t.run.bfinal = true) (hraw : t.cfgFraming ≠ 1) : t.endBlock =
    ({ t.alignR.dropTables with icons := t.alignR.rpos / 8, phase := .idle }).finish := by
  rw [State.endBlock, if_pos hwhole, if_pos hfinal, if_neg hraw]

end

/-- Settles O51: both elements are `endBlock` after their codeword, in its four cases. -/
theorem endOfBlockElements : Obligations.EndOfBlockElements := by
  intro i kind n s hi hp
  have hexec : exec i s = .next (s.skip n).endBlock := by
    rcases hi with ⟨rfl, rfl, rfl⟩ | ⟨m, rfl, rfl, rfl⟩ <;> exact if_pos hp
  rw [hexec]
  refine ⟨fun hblock => ⟨_, rfl, ?_⟩, fun hwhole hfinal => ?_, fun hwhole hfinal hframed => ?_,
    fun hwhole hfinal hraw => ⟨_, rfl, ?_⟩⟩
  · rw [endBlock_of_single (t := s.skip n) hblock]
    rfl
  · rw [endBlock_of_notFinal (t := s.skip n) hwhole hfinal]
    rfl
  · rw [endBlock_of_framed (t := s.skip n) hwhole hfinal hframed]
    rfl
  · have hcons : 8 * ((s.rpos + n + 7) / 8) / 8 = (s.rpos + n + 7) / 8 :=
      Nat.mul_div_cancel_left _ (by decide)
    rw [endBlock_of_raw (t := s.skip n) hwhole hfinal hraw, State.alignR_rpos, State.skip_rpos, hcons]
    rfl

end Sys2Proof.Machine

/-! ## `DECBLK` on a stored block (R270, R274) -/

namespace Sys2Proof

/-- `LEN` and `NLEN` behind pad bits of any value, which are not looked at (R146, R274). -/
theorem decode_storedLen_anyPad {c : StreamCtx} {bit : Nat → Bool} {rem : Nat}
    (hp : c.phase = .storedLen) {pad : List Bool} (hpad : pad.length = alignPad c.off)
    {len nlen : BitVec 16}
    (h : StartsWith bit rem (pad ++ (bitsOf len.toNat 16 ++ bitsOf nlen.toNat 16))) :
    decodeElem c bit rem = .ok (.storedLen len nlen, alignPad c.off + 32) := by
  have hlen := len.isLt
  have hnlen := nlen.isLt
  simp only [decodeElem, hp]
  rw [readElem_of_startsWith _ h hpad (by simp), ofBits_bitsOf_append, ofBits_bitsOf,
    ofNat_eq_of_mod (x := len) (by omega), ofNat_eq_of_mod (x := nlen) (by omega)]

end Sys2Proof

namespace Sys2Proof.Machine

/-- `AlignR` skips the pad bits (R146). -/
theorem alignR_eq_skip (s : State) : s.alignR = s.skip (alignPad (s.rpos % 8)) := by
  have hmove : 8 * ((s.rpos + 7) / 8) = s.rpos + alignPad (s.rpos % 8) := by
    unfold alignPad
    omega
  rw [State.alignR, hmove]
  rfl

/-- `LEN` and its complement at the cursor, behind pad bits of any value (R274). -/
theorem elementStep_storedLen_anyPad {s : State} (hp : s.phase = .storedLen) {pad : List Bool} {len : Nat}
    (hlen : len ≤ 65535) (hpad : pad.length = alignPad (s.rpos % 8))
    (h : s.Ahead (pad ++ (bitsOf len 16 ++ bitsOf (65535 - len) 16))) :
    elementStep s = .next (s.skipTo (pad.length + 32) (.storedData len)) := by
  have hvalue : (BitVec.ofNat 16 len).toNat = len := toNat_ofNat_of_lt (by omega)
  have hxor : (BitVec.ofNat 16 len ^^^ 0xFFFF).toNat = 65535 - len := by
    rw [BitVec.toNat_xor, hvalue]
    exact xor_65535 (by omega)
  have hdec := decode_storedLen_anyPad (c := s.ctx) hp hpad (len := BitVec.ofNat 16 len)
    (nlen := BitVec.ofNat 16 len ^^^ 0xFFFF) (bit := s.streamBit) (rem := s.remaining)
    (by rw [hvalue, hxor]; exact h)
  rw [elementStep_of_decodeElem hdec]
  refine (execStoredLen_accepted hp rfl).trans ?_
  rw [hvalue, alignR_eq_skip, State.skip_skip, hpad]
  rfl

/-- `DECBLK` ends where its elements lead (R270, R271). -/
theorem execDecblk_of_elementSteps {s t : State} (hcfg : s.wbitsOk = true) (halign : s.wpos % 8 = 0)
    (h : ElementSteps s.begin.startBlock t) (ht : t.phase = .idle) : execDecblk s = .next t := by
  obtain ⟨v, hv, -, -⟩ := runElements_elementFuel (decodes_startBlock s.begin)
  rw [execDecblk, if_pos ⟨hcfg, halign⟩, hv, runElements_of_elementSteps h ht hv]

/-- The bits of a stored block with given pad bits (R101, R102). -/
def storedBlockBits (f : Bool) (pad : List Bool) (payload : List Byte) : List Bool :=
  [f, false, false] ++ (pad ++ (bitsOf payload.length 16 ++ bitsOf (65535 - payload.length) 16) ++
    payload.flatMap fun b => bitsOf b.toNat 8)

theorem length_storedBlockBits (f : Bool) (pad : List Bool) (payload : List Byte) :
    (storedBlockBits f pad payload).length = 3 + (pad.length + 32 + 8 * payload.length) := by
  simp only [storedBlockBits, List.length_append, length_bytesBits, length_bitsOf]
  rfl

/-- The state at the end of a stored block, its bytes put out (R274). -/
def State.storedRead (s : State) (f : Bool) (pad : List Bool) (payload : List Byte) : State :=
  (((s.noted f 0 .storedLen).skipTo (pad.length + 32) (.storedData payload.length)).skip
    (8 * payload.length)).outBytes payload

/-- A stored block's elements: its header, its lengths behind the pad, its bytes (R273, R274). -/
theorem elementSteps_stored {s : State} {f : Bool} {pad : List Bool} {payload : List Byte}
    (hp : s.phase = .blockHdr) (hlen : payload.length ≤ 65535)
    (hpad : pad.length = alignPad ((s.rpos + 3) % 8)) (h : s.Ahead (storedBlockBits f pad payload)) :
    ElementSteps s (s.storedRead f pad payload).endBlock := by
  have hlens : (s.noted f 0 .storedLen).Ahead _ := h.advance rfl rfl rfl
  have hdata : ((s.noted f 0 .storedLen).skipTo (pad.length + 32)
      (.storedData payload.length)).Ahead _ := hlens.skipTo (by simp)
  exact ((ElementSteps.single (elementStep_blockStored hp h.left)).tail
    (elementStep_storedLen_anyPad rfl hlen hpad hlens.left)).tail (elementStep_storedData rfl hdata)

theorem storedRead_frame (s : State) (f : Bool) (pad : List Bool) (payload : List Byte) :
    s.storedRead f pad payload = { s with
      rpos := s.rpos + (storedBlockBits f pad payload).length, wpos := s.wpos + 8 * payload.length
      obuf := (s.storedRead f pad payload).obuf, phase := .storedData payload.length
      run := { s.run with bfinal := f, btype := 0 } } := by
  have hbits := length_storedBlockBits f pad payload
  unfold State.storedRead
  rw [outBytes_frame]
  simp [State.noted, State.skipTo, State.skip, hbits, Nat.add_assoc]

/-- Settles O44: the block's three elements lead to its end, where `DECBLK` reports it. -/
theorem decblkStoredBlock : Obligations.DecblkStoredBlock := by
  intro s f pad payload hcfg halign hlen hpad stream hfits hbits
  have hstream : stream = storedBlockBits f pad payload := by simp [stream, storedBlockBits]
  have hahead : s.begin.startBlock.Ahead (storedBlockBits f pad payload) :=
    hstream ▸ ⟨hfits, fun k hk => (congrArg _ (Nat.zero_add k)).trans (hbits k hk)⟩
  have hpad' : pad.length = alignPad ((s.rpos + 3) % 8) := by rw [hpad, alignPad, Nat.mod_mod]
  have hsteps := elementSteps_stored (s := s.begin.startBlock) rfl hlen hpad' hahead
  have hwhole : (s.begin.startBlock.storedRead f pad payload).run.whole = false := by
    rw [storedRead_frame]
    rfl
  have holen : s.olen = s.wpos / 8 := olen_of_aligned halign
  rw [endBlock_of_single hwhole] at hsteps
  refine ⟨_, execDecblk_of_elementSteps ((wbitsOk_iff s).2 hcfg) halign hsteps rfl, ?_,
    fun i hi => ?_, fun a ha => ?_⟩
  · rw [hstream, storedRead_frame]
    rfl
  · rw [holen]
    exact obufAt_outBytes payload (State.skip _ _) i hi
  · rw [holen] at ha
    exact obufAt_outBytes_of_outside payload (State.skip _ _) a ha

end Sys2Proof.Machine

/-! ## What `DECBLK` may change (R270, R286, R359)

`Advances` says what the elements of a block keep between them, `DecblkRuns` what holds of a `DECBLK` under
way; every move of an element step (`DecodeMove`) goes on with it, ends it, or raises an error. -/

namespace Sys2Proof.Machine

/-! ### The output below an index -/

/-- The elements of a space below an index are what they were: written with the same value, or not at
all and with the same free value. -/
structure Memory.SameBelow {w : Nat} (m m' : Memory w) (n : Nat) : Prop where
  tag : m'.tag = m.tag
  cell : ∀ a < n, findCell m'.cells a = findCell m.cells a

namespace Memory.SameBelow
variable {w : Nat} {m m' m'' : Memory w} {k n : Nat}

theorem refl (m : Memory w) (n : Nat) : m.SameBelow m n := ⟨rfl, fun _ _ => rfl⟩

theorem trans (h : m.SameBelow m' n) (h' : m'.SameBelow m'' k) (hle : n ≤ k) : m.SameBelow m'' n :=
  ⟨h'.tag.trans h.tag, fun a ha => (h'.cell a (by omega)).trans (h.cell a ha)⟩

theorem read (h : m.SameBelow m' n) (sp : Nat) {a : Nat} (ha : a < n) : m'.read sp a = m.read sp a := by
  rw [Memory.read, Memory.read, h.tag, h.cell a ha]

theorem writeRun (m : Memory w) (n : Nat) (vs : List (BitVec w)) : m.SameBelow (m.writeRun n vs) n :=
  ⟨rfl, fun a ha => by rw [findCell_writeRun, if_neg (by omega)]⟩

end Memory.SameBelow

/-! ### What an element that goes on keeps -/

/-- What the elements of a block keep (R286): all but what `ReadFrame` frees, which command runs, its
former output; whole bytes are appended. -/
structure Advances (s t : State) (n : Nat) : Prop where
  frame : ReadFrame s t n
  whole : t.run.whole = s.run.whole
  base : t.run.base = s.run.base
  appended : ∃ m, t.wpos = s.wpos + 8 * m
  kept : s.obuf.SameBelow t.obuf (s.wpos / 8)

namespace Advances
variable {s t u : State} {m n : Nat}

theorem trans (h : Advances s t m) (h' : Advances t u n) : Advances s u (m + n) := by
  obtain ⟨j, hj⟩ := h.appended
  obtain ⟨k, hk⟩ := h'.appended
  exact ⟨h.frame.trans h'.frame, h'.whole.trans h.whole, h'.base.trans h.base,
    ⟨j + k, by omega⟩, h.kept.trans h'.kept (by omega)⟩

/-- Bits are consumed, or tables and the mode set, and nothing is put out. -/
theorem of_frame (hframe : ReadFrame s t n) (hwhole : t.run.whole = s.run.whole)
    (hbase : t.run.base = s.run.base) (hwpos : t.wpos = s.wpos) (hobuf : t.obuf = s.obuf) :
    Advances s t n :=
  ⟨hframe, hwhole, hbase, ⟨0, hwpos⟩, hobuf ▸ .refl _ _⟩

theorem skip (s : State) (n : Nat) : Advances s (s.skip n) n := of_frame rfl rfl rfl rfl rfl

/-- No bit is consumed either. -/
theorem stay (h : Advances s t n) (hframe : ReadFrame t u 0)
    (hwhole : u.run.whole = t.run.whole) (hbase : u.run.base = t.run.base) (hwpos : u.wpos = t.wpos)
    (hobuf : u.obuf = t.obuf) : Advances s u n :=
  h.trans (of_frame hframe hwhole hbase hwpos hobuf)

theorem enter (h : Advances s t n) (p : Phase) : Advances s { t with phase := p } n :=
  h.stay rfl rfl rfl rfl rfl

/-- A header notes the block's fields (R273). -/
theorem note (h : Advances s t n) (f : Bool) (bt : BitVec 2) :
    Advances s { t with run := { t.run with bfinal := f, btype := bt } } n :=
  h.stay rfl rfl rfl rfl rfl

theorem setLens (h : Advances s t n) (a : Alphabet) (lens : List Nat) :
    Advances s (t.setLens a lens) n := by
  cases a <;> exact h.stay rfl rfl rfl rfl rfl

theorem setDtbl (h : Advances s t n) (a : Alphabet) (table : DecTable) :
    Advances s (t.setDtbl a table) n := by
  cases a <;> exact h.stay rfl rfl rfl rfl rfl

/-- One length of the code-length code written (R277). -/
theorem setClLen (h : Advances s t n) (v : BitVec 3) (j : Nat) :
    Advances s { t with lenCL := t.lenCL.write (clOrder.getD j 0) v } n :=
  h.stay rfl rfl rfl rfl rfl

theorem outBytes (h : Advances s t n) (bs : List Byte) : Advances s (t.outBytes bs) n := by
  refine h.trans (n := 0) ⟨?_, by simp, by simp, ⟨_, State.outBytes_wpos ..⟩, ?_⟩
  · unfold ReadFrame
    rw [outBytes_frame]
    rfl
  · unfold State.outBytes
    split
    · exact .refl _ _
    · exact .writeRun _ _ _

theorem copyBytes (h : Advances s t n) (dist len : Nat) : Advances s (copyBytes dist len t) n := by
  induction len generalizing t with
  | zero => exact h
  | succ len ih => exact ih (h.outBytes _)

theorem alignR (s : State) : Advances s s.alignR (alignPad (s.rpos % 8)) := by
  rw [alignR_eq_skip]
  exact skip s _

theorem loadDynamic (h : Advances s t n) {nl : Nat} {seq : List Nat} (hl : t.loadDynamic nl seq = .ok u) :
    Advances s u n := by
  rcases loadDynamic_cases nl seq t with he | ⟨ll, d, -, -, he, -, -⟩ <;> rw [he] at hl <;> cases hl
  exact ((((h.setLens .ll ll).setLens .d d).setDtbl .ll _).setDtbl .d _).enter _

theorem loadFixed (h : Advances s t n) : Advances s t.loadFixed n :=
  ((((h.setLens .ll _).setLens .d _).setDtbl .ll _).setDtbl .d _).enter _

end Advances

/-! ### A `DECBLK` under way -/

/-- `DECBLK` is under way, begun in `s` (R270): its elements kept what they should, and behind the header
three bits are read and the block's type is noted. -/
structure DecblkRuns (s t : State) : Prop where
  read : ∃ n, Advances s.begin.startBlock t n ∧ (t.phase = .blockHdr ∨ 3 ≤ n)
  btype : t.run.btype.toNat ≤ 2
  active : t.phase ≠ .idle
  untrailed : t.phase ≠ .zlibAdler

/-- What `DECBLK` leaves when it succeeds (R286). -/
def DecblkDone (s t : State) : Prop :=
  t = { s with
    status := .done, err := none, rpos := t.rpos, wpos := t.wpos, obuf := t.obuf
    res0 := t.res0, res1 := t.res1
    freqLL := t.freqLL, freqD := t.freqD, freqCL := t.freqCL
    lenLL := t.lenLL, lenD := t.lenD, lenCL := t.lenCL
    codeLL := t.codeLL, codeD := t.codeD, codeCL := t.codeCL
    dtblLL := t.dtblLL, dtblD := t.dtblD, dtblCL := t.dtblCL
    phase := .idle, run := t.run, fresh := t.fresh } ∧
  s.rpos + 3 ≤ t.rpos ∧ s.wpos ≤ t.wpos ∧ t.wpos % 8 = 0 ∧ t.res0.toNat ≤ 1 ∧
  t.res1.toNat ≤ 2 ∧ ∀ a < s.olen, t.obufAt a = s.obufAt a

/-- What `DECBLK` leaves when it fails (R270, R359). -/
def DecblkFailed (s t : State) : Prop :=
  ∃ e, keptAfterDecodeError e s t ∧
    ∀ a v, a < s.olen → findCell s.obuf.cells a = some v → t.obufAt a = v

section
variable {s t u : State} {n : Nat}

theorem decblkRuns_startBlock (s : State) : DecblkRuns s s.begin.startBlock :=
  ⟨⟨0, .skip _ 0, .inl rfl⟩, Nat.zero_le 2, by simp [State.startBlock], by simp [State.startBlock]⟩

/-- Every error, `InvalidConfig` as well, keeps what R359 keeps. -/
theorem raiseDecode_frame (e : HwError) (t : State) : keptAfterDecodeError e t (t.raiseDecode e) := by
  by_cases he : e = .invalidConfig
  · subst he
    rfl
  · exact keptAfterDecodeError_raiseDecode t he

/-- An error ends `DECBLK` with its former output kept (R270). -/
theorem decblkFailed_raiseDecode (halign : s.wpos % 8 = 0) (h : Advances s.begin.startBlock t n)
    (e : HwError) : DecblkFailed s (t.raiseDecode e) := by
  have hbase : t.run.base = s.olen := h.base
  refine ⟨e, ?_, fun a v ha hv => obufAt_raiseDecode h.whole (hbase ▸ ha) ?_⟩
  · have hframe := h.frame
    unfold ReadFrame at hframe
    have hkept := raiseDecode_frame e t
    unfold keptAfterDecodeError keptAfterError at hkept ⊢
    rw [hkept, hframe]
    rfl
  · rw [h.kept.cell a (olen_of_aligned halign ▸ ha)]
    exact hv

/-- The end of the block ends `DECBLK`, which reports it (R282, R286). -/
theorem decblkDone_endBlock (halign : s.wpos % 8 = 0) (h : Advances s.begin.startBlock t n) (hn : 3 ≤ n)
    (hbtype : t.run.btype.toNat ≤ 2) : DecblkDone s t.endBlock := by
  have hframe := h.frame
  have hrpos := h.frame.rpos
  obtain ⟨m, hm⟩ := h.appended
  rw [endBlock_of_single h.whole]
  refine ⟨?_, ?_, ?_, ?_, ?_, ?_, fun a ha => ?_⟩
  · unfold ReadFrame at hframe
    rw [hframe]
    rfl
  · exact (Nat.add_le_add_left hn _).trans hrpos.ge
  · exact (Nat.le_add_right _ _).trans hm.ge
  · show t.wpos % 8 = 0
    rw [hm]
    exact (Nat.add_mul_mod_self_left _ _ _).trans halign
  · show (if t.run.bfinal then (1 : BitVec 32) else 0).toNat ≤ 1
    split <;> decide
  · show (t.run.btype.setWidth 32).toNat ≤ 2
    rw [BitVec.toNat_setWidth]
    exact (Nat.mod_le _ _).trans hbtype
  · exact h.kept.read 2 (olen_of_aligned halign ▸ ha)

/-- Behind the header at least three bits are read. -/
theorem DecblkRuns.behindHeader (h : DecblkRuns s t) (hp : t.phase ≠ .blockHdr) :
    ∃ k, Advances s.begin.startBlock t k ∧ 3 ≤ k := by
  obtain ⟨k, hk, hread⟩ := h.read
  exact ⟨k, hk, hread.resolve_left hp⟩

/-- An element behind the header that goes on in another mode of the block. -/
theorem DecblkRuns.next (h : DecblkRuns s t) {p : Phase} (hp : t.phase = p) (hne : p ≠ .blockHdr)
    (hadv : Advances t u n) (hrun : u.run = t.run) (hactive : u.phase ≠ .idle)
    (htrailer : u.phase ≠ .zlibAdler) : DecblkRuns s u := by
  obtain ⟨k, hk, hthree⟩ := h.behindHeader (hp ▸ hne)
  exact ⟨⟨k + n, hk.trans hadv, .inr (by omega)⟩, hrun ▸ h.btype, hactive, htrailer⟩

/-- A header goes on in the mode of its type (R273). -/
theorem DecblkRuns.header (h : DecblkRuns s t) (hadv : Advances t u 3) (hbtype : u.run.btype.toNat ≤ 2)
    (hactive : u.phase ≠ .idle) (htrailer : u.phase ≠ .zlibAdler) : DecblkRuns s u := by
  obtain ⟨k, hk, -⟩ := h.read
  exact ⟨⟨k + 3, hk.trans hadv, .inr (by omega)⟩, hbtype, hactive, htrailer⟩

/-- An element of the block's data that ends the block. -/
theorem DecblkRuns.ends (h : DecblkRuns s t) {p : Phase} (hp : t.phase = p) (hne : p ≠ .blockHdr)
    (halign : s.wpos % 8 = 0) (hadv : Advances t u n) (hrun : u.run = t.run) :
    DecblkDone s u.endBlock := by
  obtain ⟨k, hk, hthree⟩ := h.behindHeader (hp ▸ hne)
  exact decblkDone_endBlock halign (hk.trans hadv) (by omega) (hrun ▸ h.btype)

/-- `LoadFixed` leaves the record of the run alone. -/
theorem loadFixed_run (s : State) : s.loadFixed.run = s.run := by rw [loadFixed_frame]

theorem loadFixed_phase (s : State) : s.loadFixed.phase = .data .fixed := by rw [loadFixed_frame]

/-- `LoadDynamic` leads to the block's data and leaves the record of the run alone. -/
theorem loadDynamic_data {nl : Nat} {seq : List Nat} (h : s.loadDynamic nl seq = .ok t) :
    t.run = s.run ∧ t.phase = .data .dynamic := by
  rcases loadDynamic_cases nl seq s with he | ⟨ll, d, -, -, he, -, -⟩ <;> rw [he] at h <;> cases h
  simp

theorem copyBytes_run (dist len : Nat) (s : State) : (copyBytes dist len s).run = s.run := by
  rw [copyBytes_frame]

/-- Every move of an element step goes on with `DECBLK`, ends it, or fails it. -/
theorem decblk_of_move (halign : s.wpos % 8 = 0) (h : DecblkRuns s t) (hmove : DecodeMove t u) :
    DecblkRuns s u ∨ DecblkDone s u ∨ DecblkFailed s u := by
  obtain ⟨k, hk, -⟩ := h.read
  cases hmove with
  | raised e => exact .inr (.inr (decblkFailed_raiseDecode halign hk e))
  | reservedHeader f =>
    exact .inr (.inr (decblkFailed_raiseDecode halign (hk.trans ((Advances.skip t 3).note f 3)) _))
  | zlibHdr hp =>
    exact .inl (h.next hp nofun ((Advances.skip t 16).enter _) rfl nofun nofun)
  | storedHeader f =>
    exact .inl (h.header (((Advances.skip t 3).note f 0).enter _) (Nat.zero_le 2) nofun nofun)
  | fixedHeader f =>
    refine .inl (h.header ((Advances.skip t 3).note f 1).loadFixed ?_ ?_ ?_)
    · rw [loadFixed_run]
      exact Nat.le_succ 1
    · simp [loadFixed_phase]
    · simp [loadFixed_phase]
  | dynamicHeader f =>
    exact .inl (h.header (((Advances.skip t 3).note f 2).enter _) (Nat.le_refl 2) nofun nofun)
  | storedLen len hp =>
    exact .inl (h.next hp nofun (((Advances.alignR t).trans (.skip _ 32)).enter _) rfl nofun nofun)
  | storedData payload hp =>
    exact .inr (.inl (h.ends hp nofun halign ((Advances.skip t _).outBytes payload) (by simp)))
  | dynHdr nl nd nc hp =>
    exact .inl (h.next hp nofun (((Advances.skip t 14).setLens .cl _).enter _) rfl nofun nofun)
  | dynClLen v nl nd nc j hp =>
    exact .inl (h.next hp nofun (((Advances.skip t 3).setClLen v j).enter _) rfl nofun nofun)
  | dynClLast v nl nd nc j lens hp =>
    exact .inl (h.next hp nofun ((((Advances.skip t 3).setClLen v j).setDtbl .cl _).enter _) rfl nofun nofun)
  | codeLength j m x nl nd seq hp =>
    exact .inl (h.next hp nofun ((Advances.skip t _).enter _) rfl nofun nofun)
  | lastCodeLength j m x nl nd seq u hp hr hlen hl =>
    obtain ⟨hrun, hdata⟩ := loadDynamic_data hl
    exact .inl (h.next hp nofun ((Advances.skip t _).loadDynamic hl) hrun (by simp [hdata])
      (by simp [hdata]))
  | literal kind b m hp =>
    exact .inl (h.next hp nofun ((Advances.skip t m).outBytes [b]) (by simp) (by simp [hp])
      (by simp [hp]))
  | endOfBlock kind m hp => exact .inr (.inl (h.ends hp nofun halign (Advances.skip t m) rfl))
  | lengthCode kind sym m hp =>
    exact .inl (h.next hp nofun ((Advances.skip t m).enter _) rfl nofun nofun)
  | lengthExtra kind j len hp =>
    exact .inl (h.next hp nofun ((Advances.skip t _).enter _) rfl nofun nofun)
  | distCode kind len d m hp =>
    exact .inl (h.next hp nofun ((Advances.skip t m).enter _) rfl nofun nofun)
  | copy kind len d dist hp =>
    exact .inl (h.next hp nofun (((Advances.skip t _).copyBytes dist len).enter _)
      (copyBytes_run _ _ _) nofun nofun)
  | zlibAdler hp => exact absurd hp h.untrailed

end

theorem DecblkDone.idle {s t : State} (h : DecblkDone s t) : t.phase = .idle := by rw [h.1]

theorem DecblkFailed.idle {s t : State} (h : DecblkFailed s t) : t.phase = .idle := by
  obtain ⟨e, hkept, -⟩ := h
  rw [hkept]

/-- Settles O46: whatever elements `DECBLK` reads, it is under way (`DecblkRuns`) until one of them ends
it or fails it (`decblk_of_move`). -/
theorem decblkFrame : Obligations.DecblkFrame := by
  intro s t hcfg halign h
  have hrun : runElements s.begin.startBlock.elementFuel s.begin.startBlock = .next t :=
    (if_pos ⟨(wbitsOk_iff s).2 hcfg, halign⟩).symm.trans h
  have hends : DecblkRuns s t ∨ DecblkDone s t ∨ DecblkFailed s t := by
    refine runElements_keeps (P := fun u => DecblkRuns s u ∨ DecblkDone s u ∨ DecblkFailed s u)
      (fun u v hu hp hstep => ?_) (.inl (decblkRuns_startBlock s)) hrun
    rcases hu with hu | hu | hu
    · exact decblk_of_move halign hu (elementStep_move hstep)
    · exact absurd hu.idle hp
    · exact absurd hu.idle hp
  exact hends.resolve_left fun hruns => hruns.active (runElements_next_idle hrun)

end Sys2Proof.Machine

/-! ## The zlib frame as elements (R310, R315, R333, R335) -/

namespace Sys2Proof.Machine

/-- The four checks of the header (R335). -/
theorem zlibHeaderOk_iff (cmf flg : Nat) : zlibHeaderOk cmf flg = true ↔
    cmf % 16 = 8 ∧ cmf / 16 ≤ 7 ∧ (cmf * 256 + flg) % 31 = 0 ∧ flg / 32 % 2 = 0 := by
  simp only [zlibHeaderOk, Bool.and_eq_true, beq_iff_eq, decide_eq_true_eq, and_assoc]

/-- The end of `DECOMPRESS` (R41, R315). -/
def State.streamEnd (s : State) : State :=
  ({ s.dropTables with icons := s.rpos / 8, phase := .idle }).finish

section
variable {s : State}

theorem execZlibHdr_accepted {cmf flg : Byte} (hp : s.phase = .zlibHdr)
    (h : zlibHeaderOk cmf.toNat flg.toNat = true) :
    execZlibHdr cmf flg s = .next (s.skipTo 16 .blockHdr) := by
  simp only [execZlibHdr, hp, if_pos h]
  rfl

theorem execZlibHdr_refused {cmf flg : Byte} (hp : s.phase = .zlibHdr)
    (h : ¬zlibHeaderOk cmf.toNat flg.toNat = true) :
    execZlibHdr cmf flg s = .next (s.raiseDecode .invalidHeader) := by
  simp only [execZlibHdr, hp, if_neg h]

/-- The trailer that is the output's checksum ends `DECOMPRESS` (R310, R315, R333). -/
theorem execZlibAdler_accepted {sum : BitVec 32} (hp : s.phase = .zlibAdler)
    (h : sum = BitVec.ofNat 32 (adlerOf s.outputBytes)) :
    execZlibAdler sum s = .next (State.streamEnd { s.skip 32 with adler := sum }) := by
  subst h
  simp only [execZlibAdler, hp, if_true]
  rfl

theorem execZlibAdler_refused {sum : BitVec 32} (hp : s.phase = .zlibAdler)
    (h : sum ≠ BitVec.ofNat 32 (adlerOf s.outputBytes)) :
    execZlibAdler sum s = .next (s.raiseDecode .checksumMismatch) := by
  simp only [execZlibAdler, hp, if_neg h]

end

/-- Settles O58: each element is accepted or raises its error in its own mode. -/
theorem zlibElements : Obligations.ZlibElements := by
  refine ⟨fun s cmf flg hp => ?_, fun s sum hp => ⟨fun hsum => ?_, fun hsum => ?_⟩⟩
  · have hiff := zlibHeaderOk_iff cmf.toNat flg.toNat
    split_ifs with hok
    · exact execZlibHdr_accepted hp (hiff.2 hok)
    · exact ⟨_, execZlibHdr_refused hp (mt hiff.1 hok), keptAfterDecodeError_raiseDecode s nofun⟩
  · exact ⟨_, execZlibAdler_accepted hp hsum, rfl⟩
  · exact ⟨_, execZlibAdler_refused hp hsum, keptAfterDecodeError_raiseDecode s nofun⟩

end Sys2Proof.Machine

/-! ## A whole stream read (R310, R314, R315, R333)

`AtHeader` is where `DECOMPRESS` reads a block's header, `ReadsTo` what bits it reads as blocks from there;
around the blocks stand the header and the trailer of the framing. -/

namespace Sys2Proof

/-- A field is made of the low bits of its value (R63). -/
theorem bitsOf_congr {v w n : Nat} (h : v % 2 ^ n = w % 2 ^ n) : bitsOf v n = bitsOf w n := by
  rw [← bitsOf_toNat_ofNat v n, ← bitsOf_toNat_ofNat w n, BitVec.toNat_ofNat, BitVec.toNat_ofNat, h]

end Sys2Proof

namespace Sys2Proof.Machine

/-! ### The framing (R331, R333) -/

/-- The trailer holds the low 32 bits of its value. -/
theorem adlerBits_toNat_ofNat (v : Nat) : adlerBits (BitVec.ofNat 32 v).toNat = adlerBits v := by
  unfold adlerBits
  rw [BitVec.toNat_ofNat, bitsOf_congr (v := v % 2 ^ 32 / 16777216) (w := v / 16777216) (by omega),
    bitsOf_congr (v := v % 2 ^ 32 / 65536) (w := v / 65536) (by omega),
    bitsOf_congr (v := v % 2 ^ 32 / 256) (w := v / 256) (by omega),
    bitsOf_congr (v := v % 2 ^ 32) (w := v) (by omega)]

/-- What stands before the blocks of a stream (R310, R331). -/
def streamHead (framing : BitVec 32) (cmf flg : Byte) : List Bool :=
  if framing = 1 then bitsOf cmf.toNat 8 ++ bitsOf flg.toNat 8 else []

/-- What stands behind the last byte of the blocks of a stream (R310, R333). -/
def streamTail (framing : BitVec 32) (out : List Byte) : List Bool :=
  if framing = 1 then adlerBits (adlerOf out) else []

theorem length_adlerBits (v : Nat) : (adlerBits v).length = 32 := by simp [adlerBits]

section
variable {s : State}

/-- An accepted header at the cursor (R335). -/
theorem elementStep_zlibHdr {cmf flg : Byte} (hp : s.phase = .zlibHdr)
    (hok : zlibHeaderOk cmf.toNat flg.toNat = true)
    (h : s.Ahead (bitsOf cmf.toNat 8 ++ bitsOf flg.toNat 8)) :
    elementStep s = .next (s.skipTo 16 .blockHdr) :=
  (elementStep_of_decodeElem (decode_zlibHdr hp h)).trans (execZlibHdr_accepted hp hok)

/-- The output's checksum at the cursor ends `DECOMPRESS` (R310, R315, R333). -/
theorem elementStep_zlibAdler (hp : s.phase = .zlibAdler)
    (h : s.Ahead (adlerBits (adlerOf s.outputBytes))) :
    elementStep s = .next
      (State.streamEnd { s.skip 32 with adler := BitVec.ofNat 32 (adlerOf s.outputBytes) }) := by
  rw [← adlerBits_toNat_ofNat, adlerBits, List.append_assoc, List.append_assoc] at h
  exact (elementStep_of_decodeElem (decode_zlibAdler hp h)).trans (execZlibAdler_accepted hp rfl)

/-- `DECOMPRESS` reads the header of the framing first (R310). -/
theorem elementSteps_streamHead {cmf flg : Byte} (hok : zlibHeaderOk cmf.toNat flg.toNat = true)
    (h : s.startStream.Ahead (streamHead s.cfgFraming cmf flg)) :
    ElementSteps s.startStream
      (s.startStream.skipTo (streamHead s.cfgFraming cmf flg).length .blockHdr) := by
  unfold streamHead at h ⊢
  split_ifs at h ⊢ with hframed
  · have hp : s.startStream.phase = .zlibHdr := if_pos hframed
    simpa using ElementSteps.single (elementStep_zlibHdr hp hok h)
  · have hp : s.startStream.phase = .blockHdr := if_neg hframed
    have hsame : s.startStream.skipTo 0 .blockHdr = s.startStream := by
      rw [State.skipTo, State.skip_zero, ← hp]
    rw [List.length_nil, hsame]
    exact .refl

/-- From the end of the final block `DECOMPRESS` skips to a byte boundary, reads the trailer of the framing
and ends (R314, R315). -/
theorem elementSteps_streamTail {pad : List Bool} (hwhole : s.run.whole = true)
    (hfinal : s.run.bfinal = true) (hpad : pad.length = alignPad (s.rpos % 8))
    (h : s.Ahead (pad ++ streamTail s.cfgFraming s.outputBytes)) :
    ∃ t : State, ElementSteps s.endBlock t.streamEnd ∧ t = { s with
      rpos := s.rpos + (pad ++ streamTail s.cfgFraming s.outputBytes).length
      adler := if s.cfgFraming = 1 then BitVec.ofNat 32 (adlerOf s.outputBytes) else s.adler
      phase := t.phase } := by
  have halign : s.alignR = s.skip pad.length := by rw [alignR_eq_skip, hpad]
  by_cases hframed : s.cfgFraming = 1
  · rw [streamTail, if_pos hframed] at h ⊢
    have hend : s.endBlock = s.skipTo pad.length .zlibAdler := by
      rw [endBlock_of_framed hwhole hfinal hframed, halign]
      rfl
    have hstep := elementStep_zlibAdler (s := s.skipTo pad.length .zlibAdler) rfl (h.skipTo rfl)
    rw [← hend] at hstep
    refine ⟨_, .single hstep, ?_⟩
    rw [hend, List.length_append, length_adlerBits, if_pos hframed, ← Nat.add_assoc]
    rfl
  · rw [streamTail, if_neg hframed, List.append_nil]
    rw [endBlock_of_raw hwhole hfinal hframed, halign]
    refine ⟨s.skip pad.length, .refl, ?_⟩
    rw [if_neg hframed]
    rfl

end

/-! ### The blocks (R310, R314) -/

/-- `DECOMPRESS` reads a block's header at a bit of the stream, with an output so far. -/
structure State.AtHeader (s : State) (window w : Nat) (out : List Byte) : Prop where
  phase : s.phase = .blockHdr
  whole : s.run.whole = true
  aligned : s.wpos % 8 = 0
  window_eq : s.window = window
  cursor : s.rpos % 8 = w % 8
  output : s.outputBytes = out

/-- Behind the framing's header nothing has been put out yet. -/
theorem atHeader_startStream (s : State) (n : Nat) :
    (s.startStream.skipTo n .blockHdr).AtHeader s.window n [] where
  phase := rfl
  whole := rfl
  aligned := rfl
  window_eq := rfl
  cursor := congrArg (· % 8) (Nat.zero_add n)
  output := by
    have holen : s.startStream.olen = 0 := by simp [State.olen_eq, State.startStream]
    rw [outputBytes_skipTo]
    exact List.eq_nil_of_length_eq_zero ((length_outputBytes _).trans holen)

/-- Bits at bit `w` of a stream are whole blocks, which make the output `out` the output `out'`; the last
one is the final block or not. -/
def ReadsTo (window w : Nat) (out : List Byte) (bits : List Bool) (out' : List Byte) (final : Bool) : Prop :=
  ∀ s : State, s.AtHeader window w out → s.Ahead bits →
    ∃ t r, EndsBlock s t bits.length r out' ∧ r.whole = true ∧ r.bfinal = final

/-- Behind a block that is not the final one the next blocks are read (R310). -/
theorem ReadsTo.append {window w : Nat} {out mid out' : List Byte} {l m : List Bool} {final : Bool}
    (h : ReadsTo window w out l mid false) (h' : ReadsTo window (w + l.length) mid m out' final) :
    ReadsTo window w out (l ++ m) out' final := by
  intro s hs ha
  obtain ⟨t, r, ht, hwhole, hfinal⟩ := h s hs ha.left
  have hrun := ht.run
  have hend : t.endBlock = { t with phase := .blockHdr } :=
    endBlock_of_notFinal (hrun ▸ hwhole) (hrun ▸ hfinal)
  have hframe : ReadFrame s t.endBlock l.length := by
    have hread := ht.frame
    unfold ReadFrame at hread ⊢
    rw [hend, hread]
  have hcursor : t.endBlock.rpos % 8 = (w + l.length) % 8 := by
    rw [hframe.rpos, Nat.add_mod, hs.cursor, ← Nat.add_mod]
  have hat : t.endBlock.AtHeader window (w + l.length) mid := by
    refine ⟨?_, ?_, ?_, hframe.window.trans hs.window_eq, hcursor, ?_⟩ <;> rw [hend]
    · exact hrun ▸ hwhole
    · exact ht.aligned
    · exact ht.output
  obtain ⟨u, r', hu, hr'⟩ := h' t.endBlock hat (hframe.ahead ha rfl)
  rw [List.length_append]
  exact ⟨u, r', hu.head ht.steps hframe, hr'⟩

/-! ### The stream -/

/-- `DECOMPRESS` ends where its elements lead (R310, R311). -/
theorem execDecompress_of_elementSteps {s t : State} (hcfg : s.decodeConfigOk = true)
    (h : ElementSteps s.begin.startStream t) (ht : t.phase = .idle) : execDecompress s = .next t := by
  obtain ⟨v, hv, -, -⟩ := runElements_elementFuel (decodes_startStream s.begin)
  rw [execDecompress, if_pos hcfg, hv, runElements_of_elementSteps h ht hv]

/-- The bits of a stream: the framing's header, the blocks, the pad to a byte boundary, the trailer. -/
def streamBits (framing : BitVec 32) (cmf flg : Byte) (blocks pad : List Bool) (out : List Byte) :
    List Bool :=
  streamHead framing cmf flg ++ blocks ++ (pad ++ streamTail framing out)

/-- `DECOMPRESS` of a stream: it ends with the blocks' output, the cursors behind both, and the checksum when
framed (R310, R314, R315). -/
theorem execDecompress_stream {u : State} {cmf flg : Byte} {blocks pad : List Bool} {out : List Byte}
    (hcfg : u.decodeConfigOk = true) (hok : zlibHeaderOk cmf.toNat flg.toNat = true)
    (hblocks : ReadsTo u.window (streamHead u.cfgFraming cmf flg).length [] blocks out true)
    (hpad : pad.length = alignPad ((streamHead u.cfgFraming cmf flg ++ blocks).length % 8))
    (h : u.begin.startStream.Ahead (streamBits u.cfgFraming cmf flg blocks pad out)) :
    let n := (streamBits u.cfgFraming cmf flg blocks pad out).length
    ∃ t, execDecompress u = .next t ∧ t.outputBytes = out ∧ t = { u with
      status := .done, err := none, rpos := n, wpos := 8 * out.length, ntok := 0, icons := n / 8
      adler := if u.cfgFraming = 1 then BitVec.ofNat 32 (adlerOf out) else u.adler
      obuf := t.obuf, freqLL := t.freqLL, freqD := t.freqD, freqCL := t.freqCL
      lenLL := t.lenLL, lenD := t.lenD, lenCL := t.lenCL, codeLL := t.codeLL
      codeD := t.codeD, codeCL := t.codeCL, dtblLL := t.dtblLL, dtblD := t.dtblD
      dtblCL := t.dtblCL, phase := .idle, run := t.run, fresh := t.fresh } := by
  unfold streamBits at h ⊢
  have hhead := elementSteps_streamHead hok h.left.left
  rw [List.append_assoc] at h
  have hblock : (u.begin.startStream.skipTo (streamHead u.cfgFraming cmf flg).length .blockHdr).Ahead _ :=
    h.skipTo rfl
  obtain ⟨s, r, hs, hwhole, hfinal⟩ := hblocks _ (atHeader_startStream u.begin _) hblock.left
  have hframe := hs.frame
  have hrpos : s.rpos = (streamHead u.cfgFraming cmf flg ++ blocks).length := by
    rw [hframe.rpos, List.length_append]
    exact congrArg (· + blocks.length) (Nat.zero_add _)
  have hframing : s.cfgFraming = u.cfgFraming := by
    unfold ReadFrame at hframe
    rw [hframe]
    rfl
  have htail : s.Ahead (pad ++ streamTail s.cfgFraming s.outputBytes) := by
    rw [hframing, hs.output]
    exact hframe.ahead hblock rfl
  obtain ⟨t, ht, htframe⟩ := elementSteps_streamTail (hs.run ▸ hwhole) (hs.run ▸ hfinal) (hrpos ▸ hpad) htail
  have hsteps := (hhead.trans hs.steps).trans ht
  have hout : t.outputBytes = out := by
    rw [← hs.output]
    exact outputBytes_congr (by rw [htframe]) (by rw [htframe])
  have hwpos : s.wpos = 8 * out.length := by
    have holen := olen_of_aligned hs.aligned
    have haligned := hs.aligned
    rw [← hs.output, length_outputBytes]
    omega
  refine ⟨t.streamEnd, execDecompress_of_elementSteps hcfg hsteps rfl, hout, ?_⟩
  rw [htframe, hframing, hs.output, hrpos, ← List.length_append]
  unfold ReadFrame at hframe
  rw [hframe, hwpos]
  rfl

end Sys2Proof.Machine

/-! ## `DECOMPRESS` of one stored block (R274, R310, R315) -/

namespace Sys2Proof

/-- Bit by bit, the bits of bytes are those of `byteBit` (R63). -/
theorem getD_bytesBits (bs : List Byte) (k : Nat) : (bytesBits bs).getD k false = byteBit bs k := by
  induction bs generalizing k with
  | nil => simp [bytesBits, byteBit]
  | cons b bs ih =>
    rw [bytesBits_cons]
    by_cases hk : k < 8
    · rw [byteBit_cons_of_lt b bs hk, List.getD_append _ _ _ _ (by simpa using hk),
        List.getD_eq_getElem _ _ (by simpa using hk), getElem_bitsOf, BitVec.testBit_toNat]
    · rw [byteBit_cons_of_le b bs (Nat.le_of_not_lt hk), ← ih,
        List.getD_append_right _ _ _ _ (by simpa using hk), length_bitsOf]

theorem bytesBits_append (bs cs : List Byte) : bytesBits (bs ++ cs) = bytesBits bs ++ bytesBits cs :=
  List.flatMap_append

end Sys2Proof

namespace Sys2Proof.Machine

/-- The bytes an input begins with stand at a cursor that is at its start (R63). -/
theorem ahead_of_inputBytes {s : State} (hrpos : s.rpos = 0) {bs extra : List Byte}
    (h : s.inputBytes = bs ++ extra) : s.Ahead (bytesBits bs) := by
  have hlen : s.ilen = bs.length + extra.length := by
    rw [← List.length_append, ← h, State.inputBytes, Memory.length_readRun]
  have hbits : (bytesBits bs).length = 8 * bs.length := length_bytesBits bs
  refine ⟨by rw [State.remaining_eq]; omega, fun k hk => ?_⟩
  have hbyte : bs.getD (k / 8) 0 = s.ibufAt (k / 8) := by
    have hinput : s.inputBytes.getD (k / 8) 0 = s.ibufAt (k / 8) := by
      rw [State.inputBytes, Memory.readRun, List.getD_eq_getElem _ _ (by simp; omega)]
      simp [State.ibufAt]
    rw [← hinput, h, List.getD_append _ _ _ _ (by omega)]
  rw [← List.getD_eq_getElem _ false, getD_bytesBits, byteBit, hbyte, State.streamBit, hrpos,
    Nat.zero_add, Nat.zero_add]

/-- A final stored block is read as its bytes (R274). -/
theorem readsTo_stored {window w : Nat} {out : List Byte} {pad : List Bool} {payload : List Byte}
    (hlen : payload.length ≤ 65535) (hpad : pad.length = alignPad ((w + 3) % 8)) :
    ReadsTo window w out (storedBlockBits true pad payload) (out ++ payload) true := by
  intro s hs ha
  have hcursor := hs.cursor
  have hsteps := elementSteps_stored hs.phase hlen
    (hpad.trans (congrArg alignPad (show (w + 3) % 8 = (s.rpos + 3) % 8 by omega))) ha
  refine ⟨_, { s.run with bfinal := true, btype := 0 }, ⟨hsteps, ?_, ?_, ?_, ?_⟩, hs.whole, rfl⟩
  · unfold ReadFrame
    rw [storedRead_frame]
  · rw [storedRead_frame]
  · rw [storedRead_frame]
    exact (Nat.add_mul_mod_self_left _ _ _).trans hs.aligned
  · rw [← hs.output]
    exact outputBytes_outBytes (by exact hs.aligned) payload

/-- The block's header byte is its three bits and five bits of pad (R101, R102). -/
theorem bitsOf_storedHeader {hdr : Byte} (h : hdr.toNat % 8 = 1) :
    bitsOf hdr.toNat 8 = [true, false, false] ++ bitsOf (hdr.toNat / 8) 5 := by
  refine (bitsOf_add hdr.toNat 3 5).trans ?_
  rw [bitsOf_congr (v := hdr.toNat) (w := 1) (n := 3) h]
  rfl

/-- The bytes of a final stored block, the pad in its header byte (R101, R102, R274). -/
def storedStream (hdr : Byte) (payload : List Byte) : List Byte :=
  [hdr, BitVec.ofNat 8 payload.length, BitVec.ofNat 8 (payload.length / 256),
    BitVec.ofNat 8 (65535 - payload.length), BitVec.ofNat 8 ((65535 - payload.length) / 256)] ++ payload

theorem bytesBits_storedStream {hdr : Byte} (h : hdr.toNat % 8 = 1) (payload : List Byte) :
    bytesBits (storedStream hdr payload) =
      storedBlockBits true (bitsOf (hdr.toNat / 8) 5) payload := by
  have hword : ∀ v, bitsOf v 16 = bitsOf v 8 ++ bitsOf (v / 256) 8 := fun v => bitsOf_add v 8 8
  simp only [storedStream, storedBlockBits, List.cons_append, List.nil_append, bytesBits_cons,
    bitsOf_toNat_ofNat, bitsOf_storedHeader h, hword]
  simp [bytesBits]

/-- The bytes before and behind the blocks of a stream (R331, R333). -/
def headBytes (framing : BitVec 32) (cmf flg : Byte) : List Byte := if framing = 1 then [cmf, flg] else []

def tailBytes (framing sum : BitVec 32) : List Byte :=
  if framing = 1 then
    [BitVec.ofNat 8 (sum.toNat / 16777216), BitVec.ofNat 8 (sum.toNat / 65536),
      BitVec.ofNat 8 (sum.toNat / 256), BitVec.ofNat 8 sum.toNat]
  else []

theorem bytesBits_headBytes (framing : BitVec 32) (cmf flg : Byte) :
    bytesBits (headBytes framing cmf flg) = streamHead framing cmf flg := by
  unfold headBytes streamHead
  split_ifs <;> simp [bytesBits]

theorem bytesBits_tailBytes (framing : BitVec 32) (out : List Byte) :
    bytesBits (tailBytes framing (BitVec.ofNat 32 (adlerOf out))) = streamTail framing out := by
  unfold tailBytes streamTail
  split_ifs
  · rw [← adlerBits_toNat_ofNat, adlerBits, bytesBits_cons, bytesBits_cons, bytesBits_cons,
      bytesBits_cons, bitsOf_toNat_ofNat, bitsOf_toNat_ofNat, bitsOf_toNat_ofNat, bitsOf_toNat_ofNat]
    simp [bytesBits]
  · rfl

/-- The three decompressing commands (R95). -/
theorem exec_decompressing {i : Instr} {s u : State}
    (h : (i = .decompress ∧ u = s) ∨ (i = .zdecompress ∧ u = { s with cfgFraming := 1 }) ∨
      (i = .rawdecompress ∧ u = { s with cfgFraming := 0 })) : exec i s = execDecompress u := by
  rcases h with ⟨rfl, rfl⟩ | ⟨rfl, rfl⟩ | ⟨rfl, rfl⟩ <;> rfl

/-- Settles O45: the bytes are the bits of a stream whose one block `readsTo_stored` reads. -/
theorem decompressStoredStream : Obligations.DecompressStoredStream := by
  intro i s u cmf flg hdr payload extra hi hcfg hok hhdr hlen n sum head tail stream hinput
  have hstream : stream = headBytes u.cfgFraming cmf flg ++ storedStream hdr payload ++
      tailBytes u.cfgFraming (BitVec.ofNat 32 (adlerOf payload)) := by
    simp [stream, head, tail, sum, n, headBytes, tailBytes, storedStream]
  let pad := bitsOf (hdr.toNat / 8) 5
  have hbits : bytesBits stream =
      streamBits u.cfgFraming cmf flg (storedBlockBits true pad payload) [] payload := by
    rw [hstream, bytesBits_append, bytesBits_append, bytesBits_headBytes, bytesBits_storedStream hhdr,
      bytesBits_tailBytes]
    rfl
  have hhead : (streamHead u.cfgFraming cmf flg).length % 8 = 0 := by
    rw [← bytesBits_headBytes, bytesBits, length_bytesBits]
    omega
  have hblock : (storedBlockBits true pad payload).length % 8 = 0 := by
    rw [← bytesBits_storedStream hhdr, bytesBits, length_bytesBits]
    omega
  have hpad : pad.length = alignPad (((streamHead u.cfgFraming cmf flg).length + 3) % 8) := by
    rw [Nat.add_mod, hhead, length_bitsOf]
    rfl
  obtain ⟨t, ht, hout, hframe⟩ := execDecompress_stream (u := u) (pad := []) hcfg hok
    (readsTo_stored hlen hpad) (by rw [List.length_append, Nat.add_mod, hhead, hblock]; rfl)
    (hbits ▸ ahead_of_inputBytes rfl hinput)
  have hsize : (streamBits u.cfgFraming cmf flg (storedBlockBits true pad payload) [] payload).length =
      8 * stream.length := by rw [← hbits, bytesBits, length_bytesBits]
  rw [List.nil_append, hsize, Nat.mul_div_cancel_left _ (by decide)] at hframe
  exact ⟨t, (exec_decompressing hi).trans ht, hout, hframe⟩

end Sys2Proof.Machine

/-! ## What `COMPRESS` writes (R300 to R305) -/

namespace Sys2Proof.Machine

/-! ### The output as bits, beyond the last one written (R27, R142) -/

namespace State.Wrote
variable {s t : State} {l : List Bool} (h : s.Wrote l)
include h

theorem congr (hobuf : t.obuf = s.obuf) (hwpos : t.wpos = s.wpos) : t.Wrote l := by
  obtain ⟨hlen, hout, hpad⟩ := h
  unfold State.outBit State.obufAt at hout
  unfold State.PadZero State.obufAt at hpad
  rw [← hobuf] at hout
  rw [← hobuf, ← hwpos] at hpad
  exact ⟨hwpos.trans hlen, hout, hpad⟩

/-- Up to the end of the last byte the output is the bits written, then zeros. -/
theorem outBit_eq {p : Nat} (hp : p < 8 * s.olen) : s.outBit p = l.getD p false := by
  by_cases hin : p < l.length
  · rw [List.getD_eq_getElem _ _ hin, ← h.out p hin, Nat.zero_add]
  · have hzero := outputBit_appendBits h.pad [] (p := p) hp
    rw [appendBits_nil, h.wpos, if_neg hin] at hzero
    rw [List.getD_eq_default _ _ (Nat.le_of_not_lt hin)]
    exact hzero

/-- `AlignW` makes the zeros behind the bits part of the output (R142). -/
theorem alignW : s.alignW.Wrote (l ++ List.replicate (alignPad (l.length % 8)) false) := by
  have hwpos : s.alignW.wpos = l.length + alignPad (l.length % 8) := by
    rw [State.alignW_wpos, h.wpos, alignPad]
    omega
  refine ⟨by simpa using hwpos, fun k hk => ?_, fun hoff => absurd ?_ hoff⟩
  · have hbit := h.outBit_eq (p := k) (by
      rw [List.length_append, List.length_replicate, ← hwpos, State.alignW_wpos] at hk
      exact hk)
    rw [Nat.zero_add, ← List.getD_eq_getElem _ false]
    refine hbit.trans ?_
    by_cases hin : k < l.length
    · rw [List.getD_append _ _ _ _ hin]
    · rw [List.getD_append_right _ _ _ _ (Nat.le_of_not_lt hin), List.getD_replicate,
        List.getD_eq_default _ _ (Nat.le_of_not_lt hin)]
      rw [List.length_append, List.length_replicate] at hk
      omega
  · rw [State.alignW_wpos]
    exact Nat.mul_mod_right _ _

/-- Equal bits written are equal bytes of output. -/
theorem obufAt_eq (h' : t.Wrote l) {i : Nat} (hi : i < s.olen) : t.obufAt i = s.obufAt i := by
  have holen : t.olen = s.olen := by rw [State.olen_eq, State.olen_eq, h.wpos, h'.wpos]
  refine BitVec.eq_of_getLsbD_eq fun k hk => ?_
  have hs := h.outBit_eq (p := 8 * i + k) (by omega)
  have ht := h'.outBit_eq (p := 8 * i + k) (by omega)
  rw [← hs] at ht
  rwa [State.outBit, State.outBit, Nat.mul_add_div (by decide), Nat.mul_add_mod, Nat.div_eq_of_lt hk,
    Nat.mod_eq_of_lt hk] at ht

end State.Wrote

/-! ### One chunk (R241, R303) -/

/-- Only what `EncodeBlock` writes may differ (R241). -/
def WriteFrame (s t : State) : Prop :=
  t = { s with wpos := t.wpos, obuf := t.obuf, tok := t.tok, ntok := t.ntok }

namespace WriteFrame
variable {s t u : State}

theorem refl (s : State) : WriteFrame s s := rfl

theorem trans (h : WriteFrame s t) (h' : WriteFrame t u) : WriteFrame s u := by
  unfold WriteFrame at h h' ⊢
  rw [h] at h'
  exact h'

theorem window (h : WriteFrame s t) : t.window = s.window := by
  unfold WriteFrame at h
  rw [h]
  rfl

theorem ilen (h : WriteFrame s t) : t.ilen = s.ilen := by
  unfold WriteFrame at h
  rw [h]

theorem appendBits (h : WriteFrame s t) (bits : List Bool) : WriteFrame s (t.appendBits bits) :=
  h.trans (by unfold WriteFrame; rw [appendBits_frame])

theorem alignW (h : WriteFrame s t) : WriteFrame s t.alignW := h.trans rfl

end WriteFrame

/-- The bits of the block a chunk becomes (R241, R242). -/
def chunkBits (inp : List Byte) (start endp : Nat) (final : Bool) (s : State) : List Bool :=
  blockBits final (chunkForm inp start endp 3 s (encodeBlock inp start endp final 3 s).btype)

section
variable (inp : List Byte) (start endp : Nat) (final : Bool) (s : State)

theorem encodeBlock_state : (encodeBlock inp start endp final 3 s).state =
    (withBlockTokens inp start endp 3 s).appendBits (chunkBits inp start endp final s) := by
  obtain ⟨bt, -, -, -, hr⟩ := encodeBlock_least inp start endp final le_rfl s
  rw [chunkBits, hr]

theorem writeFrame_encodeBlock : WriteFrame s (encodeBlock inp start endp final 3 s).state := by
  rw [encodeBlock_state]
  exact WriteFrame.appendBits (by unfold WriteFrame; rw [withBlockTokens_frame]) _

/-- A block has three bits at least (R101). -/
theorem encodeBlock_wpos_lt : s.wpos < (encodeBlock inp start endp final 3 s).state.wpos := by
  rw [encodeBlock_state, State.appendBits_wpos, withBlockTokens_wpos, chunkBits, length_blockBits]
  omega

theorem wrote_encodeBlock {l : List Bool} (h : s.Wrote l) :
    (encodeBlock inp start endp final 3 s).state.Wrote (l ++ chunkBits inp start endp final s) := by
  rw [encodeBlock_state]
  refine State.Wrote.appendBits (h.congr ?_ (withBlockTokens_wpos ..)) _
  rw [withBlockTokens_frame]

end

/-! ### All chunks (R300, R303) -/

section
variable {inp : List Byte} {n start : Nat} {s : State}

/-- The last chunk becomes the final block. -/
theorem compressChunks_last (h : s.ilen ≤ start + 32768) :
    compressChunks inp (n + 1) start s = (encodeBlock inp start s.ilen true 3 s).state := by
  have hend : min (start + chunkBytes) s.ilen = s.ilen := Nat.min_eq_right h
  rw [compressChunks]
  simp only [hend, decide_true, if_true]

/-- A chunk before the last. -/
theorem compressChunks_more (h : start + 32768 < s.ilen) :
    compressChunks inp (n + 1) start s =
      compressChunks inp n (start + 32768) (encodeBlock inp start (start + 32768) false 3 s).state := by
  have hend : min (start + chunkBytes) s.ilen = start + 32768 := Nat.min_eq_left h.le
  rw [compressChunks]
  simp only [hend, h.ne, decide_false, Bool.false_eq_true, if_false]

theorem writeFrame_compressChunks : WriteFrame s (compressChunks inp n start s) := by
  induction n generalizing start s with
  | zero => rfl
  | succ n ih =>
    rcases Nat.lt_or_ge (start + 32768) s.ilen with hmore | hlast
    · rw [compressChunks_more hmore]
      exact (writeFrame_encodeBlock ..).trans ih
    · rw [compressChunks_last hlast]
      exact writeFrame_encodeBlock ..

theorem compressChunks_wpos_le : s.wpos ≤ (compressChunks inp n start s).wpos := by
  induction n generalizing start s with
  | zero => exact le_rfl
  | succ n ih =>
    rcases Nat.lt_or_ge (start + 32768) s.ilen with hmore | hlast
    · rw [compressChunks_more hmore]
      exact (encodeBlock_wpos_lt ..).le.trans ih
    · rw [compressChunks_last hlast]
      exact (encodeBlock_wpos_lt ..).le

/-- At least one block is written, for the empty input as well (R303). -/
theorem compressChunks_wpos_lt : s.wpos < (compressChunks inp (n + 1) start s).wpos := by
  rcases Nat.lt_or_ge (start + 32768) s.ilen with hmore | hlast
  · rw [compressChunks_more hmore]
    exact (encodeBlock_wpos_lt ..).trans_le compressChunks_wpos_le
  · rw [compressChunks_last hlast]
    exact encodeBlock_wpos_lt ..

end

/-! ### The stream (R300, R302) -/

section
variable (s : State)

/-- The bytes of the zlib header `COMPRESS` writes (R331). -/
def State.cmf : Byte := BitVec.ofNat 8 (zlibCmf s.cfgWbits.toNat)

def State.flg : Byte := BitVec.ofNat 8 (zlibFlg s.cfgWbits.toNat s.level)

/-- The header of the framing written, and the blocks (R300). -/
def State.blocksWritten : State :=
  compressChunks s.inputBytes (s.ilen / chunkBytes + 1) 0
    (s.clearCursors.appendBits (streamHead s.cfgFraming s.cmf s.flg))

/-- The whole output written (R300). -/
def State.streamWritten : State :=
  s.blocksWritten.alignW.appendBits (streamTail s.cfgFraming s.inputBytes)

theorem writeFrame_streamWritten : WriteFrame s.clearCursors s.streamWritten :=
  WriteFrame.appendBits (WriteFrame.alignW
    (((WriteFrame.refl _).appendBits _).trans writeFrame_compressChunks)) _

theorem zlibHeaderBits_eq (wbits level : Nat) : zlibHeaderBits wbits level =
    bitsOf (BitVec.ofNat 8 (zlibCmf wbits)).toNat 8 ++ bitsOf (BitVec.ofNat 8 (zlibFlg wbits level)).toNat 8 := by
  rw [bitsOf_toNat_ofNat, bitsOf_toNat_ofNat]
  rfl

/-- `COMPRESS` writes the stream, and sets `ADLER` when framed (R300 to R305). -/
theorem compressStream_eq : s.compressStream = State.dropTables { s.streamWritten with
    adler := if s.cfgFraming = 1 then BitVec.ofNat 32 (adlerOf s.inputBytes) else s.adler } := by
  by_cases hframed : s.cfgFraming = 1
  · unfold State.compressStream State.streamWritten State.blocksWritten streamHead streamTail
    simp only [hframed, if_true, zlibHeaderBits_eq]
    rfl
  · have hbeq : (s.cfgFraming == 1) = false := beq_eq_false_iff_ne.2 hframed
    have hsame : { s.streamWritten with adler := s.adler } = s.streamWritten := by
      have hframe := writeFrame_streamWritten s
      unfold WriteFrame at hframe
      rw [hframe]
      rfl
    rw [if_neg hframed, hsame]
    unfold State.compressStream State.streamWritten State.blocksWritten streamHead streamTail
    simp only [hbeq, hframed, if_false, Bool.false_eq_true, appendBits_nil]

theorem streamWritten_aligned : s.streamWritten.wpos % 8 = 0 := by
  rw [State.streamWritten, State.appendBits_wpos, State.alignW_wpos]
  unfold streamTail
  split_ifs
  · rw [length_adlerBits]
    omega
  · rw [List.length_nil]
    omega

theorem streamWritten_wpos_pos : 0 < s.streamWritten.wpos := by
  have hblocks : 0 < s.blocksWritten.wpos := Nat.zero_lt_of_lt compressChunks_wpos_lt
  rw [State.streamWritten, State.appendBits_wpos, State.alignW_wpos]
  omega

/-- The end of `COMPRESS`: its tables dropped, everything but its output and its tokens as before. -/
theorem compressStream_frame :
    let t := s.compressStream
    t = { s with
      rpos := 0, wpos := t.wpos, ntok := t.ntok, tok := t.tok
      adler := if s.cfgFraming = 1 then BitVec.ofNat 32 (adlerOf s.inputBytes) else s.adler
      obuf := t.obuf, freqLL := t.freqLL, freqD := t.freqD, freqCL := t.freqCL
      lenLL := t.lenLL, lenD := t.lenD, lenCL := t.lenCL, codeLL := t.codeLL
      codeD := t.codeD, codeCL := t.codeCL, dtblLL := t.dtblLL, dtblD := t.dtblD
      dtblCL := t.dtblCL, fresh := t.fresh } := by
  have hframe := writeFrame_streamWritten s
  unfold WriteFrame at hframe
  rw [compressStream_eq, hframe]
  rfl

end

/-- The three compressing commands (R95). -/
theorem exec_compressing {i : Instr} {s u : State}
    (h : (i = .compress ∧ u = s) ∨ (i = .zcompress ∧ u = { s with cfgFraming := 1 }) ∨
      (i = .rawcompress ∧ u = { s with cfgFraming := 0 })) : exec i s = execCompress u := by
  rcases h with ⟨rfl, rfl⟩ | ⟨rfl, rfl⟩ | ⟨rfl, rfl⟩ <;> rfl

/-- Settles O38: the command's one case, and the frame of the stream it writes. -/
theorem compressResult : Obligations.CompressResult := by
  intro i s u hi hcfg
  have hwpos : u.begin.compressStream.finish.wpos = u.begin.streamWritten.wpos := by
    rw [compressStream_eq]
    rfl
  refine ⟨_, (exec_compressing hi).trans (execCompress_accepted hcfg), ?_, ?_, ?_⟩
  · rw [hwpos]
    exact streamWritten_aligned _
  · rw [hwpos]
    exact streamWritten_wpos_pos _
  · have hframe := compressStream_frame u.begin
    simp only at hframe
    rw [hframe]
    rfl

end Sys2Proof.Machine

/-! ## `COMPRESS` is a function of its input and its configuration (R306(b)) -/

namespace Sys2Proof.Machine

/-- Two states whose configuration, output so far and valid tokens are the same (R302, R306(b)). -/
structure Alike (s u : State) : Prop where
  level : u.cfgLevel = s.cfgLevel
  wbits : u.cfgWbits = s.cfgWbits
  strategy : u.cfgStrategy = s.cfgStrategy
  ilen : u.ilen = s.ilen
  wrote : ∃ l, s.Wrote l ∧ u.Wrote l
  ntok : u.ntok = s.ntok
  tok : ∀ i < s.ntok, u.tok.read 12 i = s.tok.read 12 i

namespace Alike
variable {s u : State} (h : Alike s u)
include h

theorem wpos : u.wpos = s.wpos := by
  obtain ⟨l, hs, hu⟩ := h.wrote
  rw [hs.wpos, hu.wpos]

theorem level_eq : u.level = s.level := by rw [State.level, State.level, h.level]

theorem matchConfig : u.matchConfig = s.matchConfig := by
  rw [State.matchConfig, State.matchConfig, State.window, State.window, h.level_eq, h.strategy, h.wbits]

theorem candidateTypes : candidateTypes u = candidateTypes s := by
  unfold Machine.candidateTypes
  rw [h.level_eq, h.strategy]

theorem blockTokenised (sel : Nat) : blockTokenised sel u = blockTokenised sel s := by
  unfold Machine.blockTokenised blockCandidates
  rw [h.candidateTypes]

theorem appendBits (m : List Bool) : Alike (s.appendBits m) (u.appendBits m) := by
  obtain ⟨l, hs, hu⟩ := h.wrote
  refine ⟨?_, ?_, ?_, ?_, ⟨l ++ m, hs.appendBits m, hu.appendBits m⟩, ?_, ?_⟩
  · simpa using h.level
  · simpa using h.wbits
  · simpa using h.strategy
  · simpa using h.ilen
  · simpa using h.ntok
  · simpa using h.tok

theorem alignW : Alike s.alignW u.alignW := by
  obtain ⟨l, hs, hu⟩ := h.wrote
  exact ⟨h.level, h.wbits, h.strategy, h.ilen, ⟨_, hs.alignW, hu.alignW⟩, h.ntok, h.tok⟩

theorem setTokens (ts : List Token) : Alike (s.setTokens ts) (u.setTokens ts) := by
  obtain ⟨l, hs, hu⟩ := h.wrote
  refine ⟨h.level, h.wbits, h.strategy, h.ilen, ⟨l, hs.congr rfl rfl, hu.congr rfl rfl⟩, rfl,
    fun i hi => ?_⟩
  rw [read_setTokens ts u hi, read_setTokens ts s hi]

section
variable (inp : List Byte) (start endp : Nat)

theorem blockTokens (sel : Nat) : blockTokens inp start endp sel u = blockTokens inp start endp sel s := by
  unfold Machine.blockTokens
  rw [h.blockTokenised, h.matchConfig]

theorem withBlockTokens (sel : Nat) :
    Alike (withBlockTokens inp start endp sel s) (withBlockTokens inp start endp sel u) := by
  unfold Machine.withBlockTokens
  rw [h.blockTokenised, h.blockTokens]
  split_ifs
  · exact h.setTokens _
  · exact h

/-- The block selected, and its bits, come from the input, the configuration and the cursor (R241). -/
theorem chunkBits (final : Bool) :
    chunkBits inp start endp final u = chunkBits inp start endp final s := by
  have hform : chunkForm inp start endp 3 u = chunkForm inp start endp 3 s := by
    unfold chunkForm
    rw [h.wpos, h.blockTokens]
  have hbtype : (Machine.encodeBlock inp start endp final 3 u).btype =
      (Machine.encodeBlock inp start endp final 3 s).btype := by
    simp only [Machine.encodeBlock, h.candidateTypes, h.matchConfig, h.wpos]
  rw [Machine.chunkBits, Machine.chunkBits, hform, hbtype]

theorem encodeBlock (final : Bool) : Alike (encodeBlock inp start endp final 3 s).state
    (encodeBlock inp start endp final 3 u).state := by
  rw [encodeBlock_state, encodeBlock_state, h.chunkBits]
  exact (h.withBlockTokens inp start endp 3).appendBits _

end

omit h in
theorem compressChunks (h : Alike s u) (inp : List Byte) (n start : Nat) :
    Alike (compressChunks inp n start s) (compressChunks inp n start u) := by
  induction n generalizing start s u with
  | zero => exact h
  | succ n ih =>
    rcases Nat.lt_or_ge (start + 32768) s.ilen with hmore | hlast
    · rw [compressChunks_more hmore, compressChunks_more (h.ilen ▸ hmore)]
      exact ih (h.encodeBlock inp start _ false) _
    · rw [compressChunks_last hlast, compressChunks_last (h.ilen ▸ hlast), h.ilen]
      exact h.encodeBlock inp start _ true

end Alike

theorem length_inputBytes (s : State) : s.inputBytes.length = s.ilen := Memory.length_readRun ..

theorem inputBytes_eq (s : State) : s.inputBytes = (List.range s.ilen).map s.ibufAt := by
  rw [← take_inputBytes le_rfl, List.take_of_length_le (length_inputBytes s).le]

section
variable {s u : State}

/-- Equal bytes below `ILEN` are equal inputs. -/
theorem inputBytes_congr (hilen : u.ilen = s.ilen) (hbytes : ∀ i < s.ilen, u.ibufAt i = s.ibufAt i) :
    u.inputBytes = s.inputBytes := by
  rw [inputBytes_eq, inputBytes_eq, hilen]
  exact List.map_congr_left fun i hi => hbytes i (List.mem_range.1 hi)

/-- The run starts with nothing written and no tokens (R300). -/
theorem alike_clearCursors (hlevel : u.cfgLevel = s.cfgLevel) (hwbits : u.cfgWbits = s.cfgWbits)
    (hstrategy : u.cfgStrategy = s.cfgStrategy) (hilen : u.ilen = s.ilen) :
    Alike s.clearCursors u.clearCursors :=
  ⟨hlevel, hwbits, hstrategy, hilen, ⟨[], wrote_nil rfl, wrote_nil rfl⟩, rfl,
    fun _ hi => absurd hi (Nat.not_lt_zero _)⟩

theorem alike_streamWritten (hstart : Alike s.clearCursors u.clearCursors)
    (hframing : u.cfgFraming = s.cfgFraming) (hinput : u.inputBytes = s.inputBytes) :
    Alike s.streamWritten u.streamWritten := by
  have hilen : u.ilen = s.ilen := hstart.ilen
  have hwbits : u.cfgWbits = s.cfgWbits := hstart.wbits
  have hlevel : u.level = s.level := hstart.level_eq
  unfold State.streamWritten State.blocksWritten State.cmf State.flg
  rw [hframing, hinput, hilen, hwbits, hlevel]
  exact (((hstart.appendBits _).compressChunks _ _ _).alignW).appendBits _

/-- The output and the tokens `COMPRESS` ends with are the ones of the stream it writes. -/
theorem alike_compressStream (h : Alike s.streamWritten u.streamWritten) :
    Alike s.compressStream.finish u.compressStream.finish := by
  obtain ⟨l, hs, hu⟩ := h.wrote
  rw [compressStream_eq, compressStream_eq]
  exact ⟨h.level, h.wbits, h.strategy, h.ilen, ⟨l, hs.congr rfl rfl, hu.congr rfl rfl⟩, h.ntok, h.tok⟩

theorem execCompress_eq_next {t : State} (hcfg : s.configOk = true) (h : exec .compress s = .next t) :
    s.begin.compressStream.finish = t :=
  Host.Outcome.next.inj ((execCompress_accepted hcfg).symm.trans h)

end

/-- Settles O39: every step of `COMPRESS` keeps two states alike. -/
theorem compressIsDeterministic : Obligations.CompressIsDeterministic := by
  intro s u t v hcfg hlevel hwbits hstrategy hframing hilen hbytes hs hu
  have hcfg' : u.configOk = true := by
    rw [configOk_iff] at hcfg ⊢
    rwa [hlevel, hwbits, hstrategy, hframing]
  rw [← execCompress_eq_next hcfg hs, ← execCompress_eq_next hcfg' hu]
  have hstart := alike_clearCursors (s := s.begin) (u := u.begin) hlevel hwbits hstrategy hilen
  have halike := alike_compressStream
    (alike_streamWritten hstart hframing (inputBytes_congr (s := s.begin) (u := u.begin) hilen hbytes))
  obtain ⟨l, hwrote, hwrote'⟩ := halike.wrote
  refine ⟨?_, fun i hi => hwrote.obufAt_eq hwrote' hi, halike.ntok, halike.tok⟩
  rw [State.olen_eq, State.olen_eq, halike.wpos]

end Sys2Proof.Machine

/-! ## `DECOMPRESS` inverts `COMPRESS` (R306(a), R317(a)) -/

namespace Sys2Proof.Machine

/-! ### The blocks -/

section
variable {inp : List Byte} {s : State}

/-- A chunk's block is read back as the chunk (R251 to R254, R257(b)). -/
theorem readsTo_chunkBits {start endp : Nat} (final : Bool) (hwindow : s.window ≤ 32768)
    (hstart : start ≤ endp) (hend : endp ≤ inp.length) (hchunk : endp - start ≤ 32768) :
    ReadsTo s.window s.wpos (inp.take start) (chunkBits inp start endp final s) (inp.take endp) final := by
  intro t ht ha
  obtain ⟨bt, hmem, hbt, -, hr⟩ := encodeBlock_least inp start endp final le_rfl s
  have hbits : chunkBits inp start endp final s = blockBits final (chunkForm inp start endp 3 s bt) := by
    rw [chunkBits, hr]
  rw [hbits] at ha ⊢
  obtain ⟨v, hv⟩ := endsBlock_blockForm (cfg := s.matchConfig) ht.phase ht.aligned ht.window_eq.symm
    hwindow hstart hend (by omega) ht.cursor.symm ht.output hbt
    (fun hne => if_pos (blockTokenised_of_mem hmem hbt hne)) ha
  rw [length_blockBits]
  exact ⟨v, _, hv, ht.whole, rfl⟩

section
variable {n start : Nat} {l : List Bool} (hwindow : s.window ≤ 32768) (hilen : s.ilen = inp.length)
  (hstart : start ≤ inp.length) (hl : s.Wrote l)
include hwindow hilen hstart hl

/-- The block of the last chunk is read back as the rest of the input (R303). -/
theorem readsTo_compressChunks_last (hfits : inp.length ≤ start + 32768) :
    ∃ m, ReadsTo s.window s.wpos (inp.take start) m inp true ∧
      (compressChunks inp (n + 1) start s).Wrote (l ++ m) := by
  have hread := readsTo_chunkBits (s := s) true hwindow hstart le_rfl (by omega)
  rw [List.take_length] at hread
  rw [compressChunks_last (hilen ▸ hfits), hilen]
  exact ⟨_, hread, wrote_encodeBlock inp start _ true s hl⟩

/-- The blocks of the chunks from `start` on are read back as the rest of the input (R303, R306(a)). -/
theorem readsTo_compressChunks (hn : inp.length < start + 32768 * (n + 1)) :
    ∃ m, ReadsTo s.window s.wpos (inp.take start) m inp true ∧
      (compressChunks inp (n + 1) start s).Wrote (l ++ m) := by
  induction n generalizing start s l with
  | zero => exact readsTo_compressChunks_last hwindow hilen hstart hl (by omega)
  | succ n ih =>
    rcases Nat.lt_or_ge (start + 32768) inp.length with hmore | hfits
    · have hn' : inp.length < start + 32768 + 32768 * (n + 1) := hn.trans_eq (by ring)
      have hread := readsTo_chunkBits (s := s) false hwindow (Nat.le_add_right start 32768) hmore.le
        (Nat.add_sub_cancel_left start 32768).le
      have hframe := writeFrame_encodeBlock inp start (start + 32768) false s
      have hwrote := wrote_encodeBlock inp start (start + 32768) false s hl
      have hwpos := hwrote.wpos
      rw [List.length_append, ← hl.wpos] at hwpos
      obtain ⟨m, hrest, hm⟩ := ih (hframe.window.trans_le hwindow) (hframe.ilen.trans hilen) hmore.le
        hwrote hn'
      rw [hframe.window, hwpos] at hrest
      rw [List.append_assoc] at hm
      rw [compressChunks_more (hilen ▸ hmore)]
      exact ⟨_, hread.append hrest, hm⟩
    · exact readsTo_compressChunks_last hwindow hilen hstart hl hfits

end

end

/-! ### The stream -/

section
variable {s : State}

/-- A legal configuration's level is at most 9 (R23, R211). -/
theorem level_le_of_configOk (h : s.configOk = true) : s.level ≤ 9 := by
  obtain ⟨⟨-, hlevel⟩, -⟩ := (configOk_iff s).1 h
  unfold State.level
  split_ifs
  · decide
  · omega

/-- The header `COMPRESS` writes is one `DECOMPRESS` accepts (R331, R335). -/
theorem zlibHeaderOk_written (h : s.configOk = true) : zlibHeaderOk s.cmf.toNat s.flg.toNat = true := by
  have hall : ∀ wbits < 16, 9 ≤ wbits → ∀ level < 10,
      zlibHeaderOk (BitVec.ofNat 8 (zlibCmf wbits)).toNat (BitVec.ofNat 8 (zlibFlg wbits level)).toNat =
        true := by decide
  obtain ⟨-, ⟨hlow, hhigh⟩, -⟩ := (configOk_iff s).1 h
  exact hall _ (Nat.lt_succ_of_le hhigh) hlow _ (Nat.lt_succ_of_le (level_le_of_configOk h))

/-- What `COMPRESS` writes is a stream whose blocks are read back as the input (R300, R306(a)). -/
theorem wrote_streamWritten (hcfg : s.configOk = true) :
    ∃ blocks pad, ReadsTo s.window (streamHead s.cfgFraming s.cmf s.flg).length [] blocks s.inputBytes true ∧
      pad.length = alignPad ((streamHead s.cfgFraming s.cmf s.flg ++ blocks).length % 8) ∧
      s.streamWritten.Wrote (streamBits s.cfgFraming s.cmf s.flg blocks pad s.inputBytes) := by
  have hstart : WriteFrame s.clearCursors
      (s.clearCursors.appendBits (streamHead s.cfgFraming s.cmf s.flg)) := (WriteFrame.refl _).appendBits _
  have hhead := (wrote_nil (s := s.clearCursors) rfl).appendBits (streamHead s.cfgFraming s.cmf s.flg)
  rw [List.nil_append] at hhead
  have hn : s.inputBytes.length < 0 + 32768 * (s.ilen / chunkBytes + 1) := by
    rw [length_inputBytes, chunkBytes]
    omega
  obtain ⟨blocks, hread, hwrote⟩ := readsTo_compressChunks (inp := s.inputBytes)
    (hstart.window.trans_le (window_le_of_configOk hcfg))
    (hstart.ilen.trans (length_inputBytes s).symm) (Nat.zero_le _) hhead hn
  rw [hstart.window, hhead.wpos] at hread
  have hstream := hwrote.alignW.appendBits (streamTail s.cfgFraming s.inputBytes)
  rw [List.append_assoc] at hstream
  exact ⟨blocks, _, hread, List.length_replicate, hstream⟩

end

/-- Settles O41: `DECOMPRESS` reads the stream written (`execDecompress_stream`). -/
theorem compressRoundTrip : Obligations.CompressRoundTrip := by
  intro s t u hcfg hexec hwbits hframing hilen hbytes
  obtain ⟨blocks, pad, hread, hpad, hstream⟩ := wrote_streamWritten (s := s.begin) hcfg
  have ht : s.begin.compressStream.finish = t := execCompress_eq_next hcfg hexec
  rw [compressStream_eq] at ht
  have hwrote : t.Wrote _ := hstream.congr (t := t) (by rw [← ht]; rfl) (by rw [← ht]; rfl)
  have haligned : t.wpos % 8 = 0 := by
    rw [← ht]
    exact streamWritten_aligned s.begin
  have halign : t.alignW = t := alignW_of_aligned haligned
  have hahead : u.begin.startStream.Ahead _ := hwrote.startsWith (u := u.begin.startStream) rfl
    (by rw [halign]; exact hilen) (by rw [halign]; exact fun i hi => hbytes i (hi.trans_eq hilen))
  have hcfg' : u.decodeConfigOk = true := by
    obtain ⟨-, hrange, -, hframe⟩ := (configOk_iff s).1 hcfg
    rw [decodeConfigOk_iff, hwbits, hframing]
    exact ⟨hrange, hframe⟩
  have hwindow : u.window = s.window := by rw [State.window, State.window, hwbits]
  have hframing' : u.cfgFraming = s.begin.cfgFraming := hframing
  rw [← hframing'] at hread hpad hahead hwrote
  obtain ⟨v, hv, hout, hframe⟩ := execDecompress_stream hcfg' (zlibHeaderOk_written (s := s.begin) hcfg)
    (hwindow ▸ hread) hpad hahead
  refine ⟨v, hv, by rw [hframe], hout, ?_⟩
  rw [hframe, hilen, State.olen_eq, ← hwrote.wpos]
  dsimp only
  omega

end Sys2Proof.Machine

/-! ## The command `ADLER32` and the checksum's recurrence (R332) -/

namespace Sys2Proof.Machine

/-- The low and high sums after one more byte (R332). -/
def adlerStep (p : Nat × Nat) (x : Byte) : Nat × Nat :=
  let a := (p.1 + x.toNat) % 65521
  (a, (p.2 + a) % 65521)

/-- The low and high sums after the bytes `bs` (R332). -/
def adlerSums (bs : List Byte) : Nat × Nat := bs.foldl adlerStep (1, 0)

theorem adlerOf_eq (bs : List Byte) : adlerOf bs = (adlerSums bs).2 * 65536 + (adlerSums bs).1 := rfl

theorem adlerSums_concat (bs : List Byte) (x : Byte) :
    adlerSums (bs ++ [x]) = adlerStep (adlerSums bs) x := List.foldl_concat ..

/-- The low sum is a residue, so it fits the low half of the checksum. -/
theorem adlerSums_fst_lt (bs : List Byte) : (adlerSums bs).1 < 65521 := by
  rcases List.eq_nil_or_concat' bs with rfl | ⟨bs, x, rfl⟩
  · decide
  · rw [adlerSums_concat]
    exact Nat.mod_lt _ (by decide)

theorem adlerOf_mod (bs : List Byte) : adlerOf bs % 65536 = (adlerSums bs).1 := by
  have hlow := adlerSums_fst_lt bs
  rw [adlerOf_eq]
  omega

theorem adlerOf_div (bs : List Byte) : adlerOf bs / 65536 = (adlerSums bs).2 := by
  have hlow := adlerSums_fst_lt bs
  rw [adlerOf_eq]
  omega

/-- The recurrence of R332, on the checksum's two halves. -/
theorem adlerOf_concat (bs : List Byte) (x : Byte) :
    adlerOf (bs ++ [x]) =
      (adlerOf bs / 65536 + (adlerOf bs % 65536 + x.toNat) % 65521) % 65521 * 65536 +
        (adlerOf bs % 65536 + x.toNat) % 65521 := by
  rw [adlerOf_eq, adlerSums_concat, adlerOf_mod, adlerOf_div, adlerStep]

theorem execAdler32_eq (s : State) : execAdler32 s = .next { s with
    status := .done, err := none
    res0 := BitVec.ofNat 32 (adlerOf s.inputBytes)
    adler := BitVec.ofNat 32 (adlerOf s.inputBytes) } :=
  (command_of_ok (u := { s.begin with
    res0 := BitVec.ofNat 32 (adlerOf s.inputBytes)
    adler := BitVec.ofNat 32 (adlerOf s.inputBytes) }) rfl).trans rfl

/-- Settles O60: the body raises no error, and the checksum's halves are the sums the loop keeps. -/
theorem adler32Result : Obligations.Adler32Result :=
  ⟨execAdler32_eq, rfl, adlerOf_concat⟩

end Sys2Proof.Machine

/-! ## The errors a command may end with (R350 to R359)

`EndsIn` lists the three ends of a command: `DONE`, a refusal that changes the flags alone, or an error of its
row of R354. For `DECBLK` and `DECOMPRESS` it follows from what each element of the stream can come to
(`ElementEnd`) and from the modes the command can reach (`Decoding`). -/

namespace Sys2Proof

/-! ### The errors of reading an element -/

/-- The errors by which the reading of bits and codewords fails (R111, R143, R196). -/
def readErrors : List HwError := [.truncatedInput, .invalidHuffmanCode]

section
variable {bit : Nat → Bool} {rem : Nat} {e : HwError}

theorem readElem_raises {skip n : Nat} {mk : Nat → Instr}
    (h : readElem bit rem skip n mk = .error (.raises e)) : e ∈ readErrors := by
  unfold readElem at h
  split_ifs at h
  cases h
  decide

theorem elemOr_raises {i : Option Instr} {n : Nat} (h : elemOr i n = .error (.raises e)) :
    e ∈ readErrors := by
  cases i <;> cases h
  decide

theorem decodeSym_raises {a : Alphabet} {t : DecTable}
    (h : decodeSym a t bit rem = .error (.raises e)) : e ∈ readErrors := by
  rcases Machine.decodeSym_cases a t bit rem with ⟨-, he⟩ | ⟨-, -, he⟩ | ⟨-, -, he⟩ <;> rw [he] at h <;>
    cases h <;> decide

theorem decodeClElem_raises {t : DecTable} {seq : List Nat}
    (h : decodeClElem t seq bit rem = .error (.raises e)) : e ∈ readErrors := by
  unfold decodeClElem at h
  split at h
  · next hs => cases h; exact decodeSym_raises hs
  · split_ifs at h
    · cases h; decide
    · cases h; decide
    · exact elemOr_raises h

/-- Every mode reads its element by fields, codewords or extra bits. -/
theorem decodeElem_raises {c : StreamCtx} (h : decodeElem c bit rem = .error (.raises e)) :
    e ∈ readErrors := by
  unfold decodeElem at h
  split at h
  case h_1 => cases h
  case h_5 =>
    split at h <;> cases h
    decide
  case h_8 => exact decodeClElem_raises h
  case h_9 | h_10 | h_12 | h_13 =>
    split at h
    · next hs => cases h; exact decodeSym_raises hs
    · exact elemOr_raises h
  case h_11 | h_14 =>
    simp only at h
    split at h
    · cases h; decide
    · exact elemOr_raises h
  all_goals exact readElem_raises h

end

/-- The modes of a block's elements; the others are those of the zlib frame, and no mode at all (R112). -/
def Phase.inBlock : Phase → Bool
  | .idle | .zlibHdr | .zlibAdler => false
  | _ => true

theorem Phase.ne_idle_of_inBlock {p : Phase} (h : p.inBlock = true) : p ≠ .idle := by
  rintro rfl
  cases h

end Sys2Proof

namespace Sys2Proof.Machine

/-! ### What an element comes to -/

/-- The errors of the elements of blocks (R354, the row of `DECBLK`). -/
def blockErrors : List HwError :=
  [.truncatedInput, .invalidBlockType, .invalidStoredLength, .invalidHuffmanCode, .windowSizeExceeded]

/-- The errors of the zlib frame (R333, R335). -/
def frameErrors : List HwError := [.invalidHeader, .checksumMismatch]

/-- The errors of a stream's elements, with or without the frame (R354, the row of `DECOMPRESS`). -/
def streamErrors (framed : Bool) : List HwError := blockErrors ++ if framed then frameErrors else []

/-- What the element step of `s` can come to: an error of blocks, in the frame's modes one of the frame's,
the next element of a block, or the end of the block or the stream. -/
inductive ElementEnd (s : State) : State → Prop
  | raised (u : State) {e : HwError} : e ∈ blockErrors → ElementEnd s (u.raiseDecode e)
  | misframed (u : State) {e : HwError} : s.phase.inBlock = false → e ∈ frameErrors →
      ElementEnd s (u.raiseDecode e)
  | next {t : State} {n : Nat} : Advances s t n → t.phase.inBlock = true → ElementEnd s t
  | block {u : State} {n : Nat} : Advances s u n → ElementEnd s u.endBlock
  | stream {u : State} : u.err = s.err → ElementEnd s u.streamEnd

section
variable {s t u : State}

theorem mem_blockErrors_of_read {e : HwError} (h : e ∈ readErrors) : e ∈ blockErrors := by
  revert e
  decide

theorem extendLens_error {nl nd : Nat} {seq : List Nat} {e : HwError}
    (h : s.extendLens nl nd seq = .error e) : e = .invalidHuffmanCode := by
  rcases extendLens_cases nl nd seq s with he | ⟨-, he⟩ | ⟨-, he⟩ <;> rw [he] at h
  · cases h; rfl
  · rcases loadDynamic_cases nl seq s with hl | ⟨_, _, -, -, hl, -, -⟩ <;> rw [hl] at h <;> cases h
    rfl
  · cases h

theorem extendLens_advances {nl nd n : Nat} {seq : List Nat} (hadv : Advances s t n)
    (h : t.extendLens nl nd seq = .ok u) : Advances s u n ∧ u.phase.inBlock = true := by
  rcases extendLens_cases nl nd seq t with he | ⟨-, he⟩ | ⟨-, he⟩ <;> rw [he] at h
  · cases h
  · obtain ⟨-, hdata⟩ := loadDynamic_data h
    exact ⟨hadv.loadDynamic h, by rw [hdata]; rfl⟩
  · cases h
    exact ⟨hadv.enter _, rfl⟩

/-- A code-length symbol (R278, R279). -/
theorem clElement_end {k n x : Nat} (h : clElement k n x s = .next t) : ElementEnd s t := by
  unfold clElement at h
  split at h
  · simp only at h
    split at h
    · cases h
      exact .raised s (by decide)
    · split at h <;> cases h
      · next hok =>
        obtain ⟨hadv, hmode⟩ := extendLens_advances (Advances.skip s _) hok
        exact .next hadv hmode
      · next he => exact .raised s (by rw [extendLens_error he]; decide)
  · cases h

/-- A length of the code-length code (R277). -/
theorem execDynClLen_end {v : BitVec 3} (h : execDynClLen v s = .next t) : ElementEnd s t := by
  unfold execDynClLen at h
  split at h
  · next nl nd nc j hp =>
    have hadv := (Advances.skip s 3).setClLen v j
    simp only at h
    split at h
    · cases h
      exact .next (hadv.enter _) rfl
    · rcases buildDecoder_cases .cl
        (State.lens { s.skip 3 with lenCL := s.lenCL.write (clOrder.getD j 0) v } .cl)
        { s.skip 3 with lenCL := s.lenCL.write (clOrder.getD j 0) v } with ⟨-, he⟩ | ⟨-, he⟩ <;>
        rw [he] at h <;> cases h
      · exact .next ((hadv.setDtbl .cl _).enter _) rfl
      · exact .raised s (by decide)
  · cases h

/-- A literal's byte is put out in the mode it was read in (R281). -/
theorem literalElement_end {k : BlockKind} {b : Byte} {n : Nat} (h : literalElement k b n s = .next t) :
    ElementEnd s t := by
  obtain ⟨hp, rfl⟩ := literalElement_next h
  exact .next ((Advances.skip s n).outBytes [b]) (by simp [hp, Phase.inBlock])

theorem eobElement_end {k : BlockKind} {n : Nat} (h : eobElement k n s = .next t) : ElementEnd s t := by
  obtain ⟨-, rfl⟩ := eobElement_next h
  exact .block (Advances.skip s n)

theorem lengthCodeElement_end {k : BlockKind} {sym n : Nat} (h : lengthCodeElement k sym n s = .next t) :
    ElementEnd s t := by
  obtain ⟨-, rfl⟩ := lengthCodeElement_next h
  exact .next ((Advances.skip s n).enter _) rfl

theorem distCodeElement_end {k : BlockKind} {d n : Nat} (h : distCodeElement k d n s = .next t) :
    ElementEnd s t := by
  obtain ⟨len, -, rfl⟩ := distCodeElement_next h
  exact .next ((Advances.skip s n).enter _) rfl

/-- A distance symbol: the copy, or a refusal (R284, R285). -/
theorem execElement_dist_end {i : Instr} {d x : Nat} (hf : i.distFields = some (d, x))
    (h : execElement i s = .next t) : ElementEnd s t := by
  rcases execElement_of_distFields hf s with he | he <;> rw [he] at h
  · obtain ⟨k, len, -, ⟨-, -, rfl⟩ | ⟨-, rfl⟩⟩ := distElement_next h
    · exact .next (((Advances.skip s _).copyBytes _ len).enter _) rfl
    · exact .raised s (by decide)
  · obtain ⟨-, rfl⟩ := distInvalidElement_next h
    exact .raised s (by decide)

/-- Executing the element at the cursor has one of the five ends. -/
theorem execElement_end {i : Instr} (hi : ElementAt s.ctx s.remaining i)
    (h : execElement i s = .next t) : ElementEnd s t := by
  cases hi with
  | zlibHdr cmf flg hp =>
    rcases execZlibHdr_next h with rfl | rfl
    · exact .next ((Advances.skip s 16).enter _) rfl
    · exact .misframed s (congrArg Phase.inBlock hp) (by decide)
  | blockStored f =>
    obtain ⟨-, rfl⟩ := headerElement_next (f := f) (g := fun u => { u with phase := .storedLen }) h
    exact .next (((Advances.skip s 3).note f 0).enter _) rfl
  | blockFixed f =>
    obtain ⟨-, rfl⟩ := headerElement_next h
    exact .next ((Advances.skip s 3).note f 1).loadFixed (by rw [loadFixed_phase]; rfl)
  | blockDynamic f =>
    obtain ⟨-, rfl⟩ := headerElement_next (f := f) (g := fun u => { u with phase := .dynHdr }) h
    exact .next (((Advances.skip s 3).note f 2).enter _) rfl
  | blockReserved f =>
    obtain ⟨-, rfl⟩ := headerElement_next h
    exact .raised _ (by decide)
  | storedLen len nlen =>
    rcases execStoredLen_next h with rfl | rfl
    · exact .next (((Advances.alignR s).trans (.skip _ 32)).enter _) rfl
    · exact .raised s (by decide)
  | storedData payload =>
    exact execStoredData_next h ▸ .block ((Advances.skip s _).outBytes payload)
  | dynHdr hlit hdist hclen =>
    rcases execDynHdr_next h with rfl | ⟨-, -, rfl⟩
    · exact .raised s (by decide)
    · exact .next (((Advances.skip s 14).setLens .cl _).enter _) rfl
  | dynClLen v => exact execDynClLen_end h
  | codeLength _ _ _ _ _ _ _ _ hf => exact clElement_end (execElement_of_clFields hf s ▸ h)
  | fixedLit0To143 | fixedLit144To255 | dynLit => exact literalElement_end h
  | fixedEob | dynEob => exact eobElement_end h
  | fixedLen257To279 | fixedLen280To285 | dynLen => exact lengthCodeElement_end h
  | fixedLL286To287 sym => exact execFixedLL286To287_next (sym := sym) h ▸ .raised s (by decide)
  | length _ k j x _ hf =>
    obtain ⟨he, -, -⟩ := execElement_of_lengthFields hf s
    obtain ⟨k', -, rfl⟩ := lengthElement_next (he ▸ h)
    exact .next ((Advances.skip s _).enter _) rfl
  | fixedDist | dynDist => exact distCodeElement_end h
  | dist _ _ _ _ _ _ hf => exact execElement_dist_end hf h
  | zlibAdler v hp =>
    rcases execZlibAdler_next h with rfl | rfl
    · exact .stream (u := { s.skip 32 with adler := BitVec.ofNat 32 (adlerOf s.outputBytes) }) rfl
    · exact .misframed s (congrArg Phase.inBlock hp) (by decide)

/-- Everything an element step can come to, the errors of its reading included. -/
theorem elementStep_end (h : elementStep s = .next t) : ElementEnd s t := by
  rcases elementStep_cases s with ⟨i, n, hd, he⟩ | ⟨e, hd, he⟩ | ⟨-, he⟩ <;> rw [he] at h
  · exact execElement_end (decodeElem_elementAt hd) h
  · cases h
    exact .raised s (mem_blockErrors_of_read (decodeElem_raises hd))
  · cases h

/-! ### The ends of a command -/

/-- How a command begun in `s` ends when `errs` is its row of R354: done, refused with the flags alone
changed (R359), or in another error of the row. -/
inductive EndsIn (s : State) (errs : List HwError) : State → Prop
  | done {t : State} : t.status = .done → t.err = none → EndsIn s errs t
  | refused : .invalidConfig ∈ errs → EndsIn s errs (s.flagError .invalidConfig)
  | raised {t : State} {e : HwError} : e ∈ errs → e ≠ .invalidConfig → t.status = .error →
      t.err = some e → EndsIn s errs t

theorem EndsIn.mono {errs errs' : List HwError} (h : EndsIn s errs t) (hsub : errs ⊆ errs') :
    EndsIn s errs' t := by
  cases h with
  | done hs he => exact .done hs he
  | refused hmem => exact .refused (hsub hmem)
  | raised hmem hne hs he => exact .raised (hsub hmem) hne hs he

/-- The end as the two flags show it (R25). -/
theorem EndsIn.flags {errs : List HwError} (h : EndsIn s errs t) :
    (t.status = .done ∧ t.err = none) ∨ ∃ e ∈ errs, t.status = .error ∧ t.err = some e := by
  cases h with
  | done hs he => exact .inl ⟨hs, he⟩
  | refused hmem => exact .inr ⟨_, hmem, rfl, rfl⟩
  | raised hmem _ hs he => exact .inr ⟨_, hmem, hs, he⟩

theorem EndsIn.err_of_done {errs : List HwError} (h : EndsIn s errs t) (hdone : t.status = .done) :
    t.err = none := by
  rcases h.flags with ⟨-, he⟩ | ⟨e, -, herror, -⟩
  · exact he
  · rw [herror] at hdone
    cases hdone

theorem ne_invalidConfig_of_mem {framed : Bool} {e : HwError} (h : e ∈ streamErrors framed) :
    e ≠ .invalidConfig := by
  rintro rfl
  revert framed
  decide

/-! ### Runs of elements -/

/-- A decode command under way: no end yet, and the frame's modes and the trailer to come only where the
stream is framed (R310). -/
structure Decoding (framed : Bool) (s : State) : Prop where
  busy : s.status = .busy
  noError : s.err = none
  active : s.phase ≠ .idle
  header : s.phase.inBlock = false → framed = true
  trailer : s.run.whole = true → s.cfgFraming = 1 → framed = true

namespace ReadFrame
variable {n : Nat}

theorem status (h : ReadFrame s t n) : t.status = s.status := by
  unfold ReadFrame at h
  rw [h]

theorem err (h : ReadFrame s t n) : t.err = s.err := by
  unfold ReadFrame at h
  rw [h]

theorem cfgFraming (h : ReadFrame s t n) : t.cfgFraming = s.cfgFraming := by
  unfold ReadFrame at h
  rw [h]

end ReadFrame

namespace Decoding
variable {framed : Bool} {n : Nat}

/-- The next mode of a decode command. -/
theorem next (h : Decoding framed s) (hadv : Advances s t n) (hactive : t.phase ≠ .idle)
    (hheader : t.phase.inBlock = false → framed = true) : Decoding framed t where
  busy := hadv.frame.status.trans h.busy
  noError := hadv.frame.err.trans h.noError
  active := hactive
  header := hheader
  trailer hwhole hf := h.trailer (hadv.whole ▸ hwhole) (hadv.frame.cfgFraming ▸ hf)

/-- The end of a block: the command is done, or it goes on with a header or with the trailer (R270, R310). -/
theorem endBlock (h : Decoding framed s) (hadv : Advances s t n) :
    Decoding framed t.endBlock ∨
      (t.endBlock.phase = .idle ∧ t.endBlock.status = .done ∧ t.endBlock.err = none) := by
  have herr : t.err = none := hadv.frame.err.trans h.noError
  rcases endBlock_cases t with ⟨-, he⟩ | ⟨-, -, he⟩ | ⟨hwhole, -, hf, he⟩ | ⟨-, -, -, he⟩ <;> rw [he]
  · exact .inr ⟨rfl, rfl, herr⟩
  · exact .inl (h.next (hadv.enter _) nofun nofun)
  · have hframed := h.trailer (hadv.whole ▸ hwhole) (hadv.frame.cfgFraming ▸ hf)
    exact .inl (h.next ((hadv.trans (.alignR t)).enter _) nofun fun _ => hframed)
  · exact .inr ⟨rfl, rfl, herr⟩

/-- After an element the command goes on, or it has ended done or in an error of its stream. -/
theorem step (h : Decoding framed s) (hend : ElementEnd s t) (s₀ : State) :
    Decoding framed t ∨ (t.phase = .idle ∧ EndsIn s₀ (streamErrors framed) t) := by
  have failed : ∀ {e : HwError} (u : State), e ∈ streamErrors framed →
      (u.raiseDecode e).phase = .idle ∧ EndsIn s₀ (streamErrors framed) (u.raiseDecode e) :=
    fun u he => ⟨rfl, .raised he (ne_invalidConfig_of_mem he) (by simp) (by simp)⟩
  cases hend with
  | raised u he => exact .inr (failed u (List.mem_append_left _ he))
  | misframed u hp he =>
    have hframed := h.header hp
    exact .inr (failed u (List.mem_append_right _ (by simpa [hframed] using he)))
  | next hadv hmode => exact .inl (h.next hadv (Phase.ne_idle_of_inBlock hmode) (by simp [hmode]))
  | block hadv =>
    rcases h.endBlock hadv with hon | ⟨hidle, hdone, herr⟩
    · exact .inl hon
    · exact .inr ⟨hidle, .done hdone herr⟩
  | stream hu => exact .inr ⟨rfl, .done rfl (hu.trans h.noError)⟩

end Decoding

/-- A decode command whose elements come to an end has ended done or in an error of its stream. -/
theorem endsIn_of_runElements {framed : Bool} {n : Nat} (s₀ : State) (hs : Decoding framed s)
    (h : runElements n s = .next t) : EndsIn s₀ (streamErrors framed) t := by
  have hend : Decoding framed t ∨ (t.phase = .idle ∧ EndsIn s₀ (streamErrors framed) t) := by
    refine runElements_keeps
      (P := fun u => Decoding framed u ∨ (u.phase = .idle ∧ EndsIn s₀ (streamErrors framed) u))
      (fun u v hu hp hstep => ?_) (.inl hs) h
    rcases hu with hu | ⟨hidle, -⟩
    · exact hu.step (elementStep_end hstep) s₀
    · exact absurd hidle hp
  rcases hend with hon | ⟨-, hend⟩
  · exact absurd (runElements_next_idle h) hon.active
  · exact hend

theorem decoding_startBlock (s : State) : Decoding false s.begin.startBlock :=
  ⟨rfl, rfl, nofun, nofun, nofun⟩

/-- `DECOMPRESS` reads the frame where `CFG_FRAMING` is 1 (R310). -/
theorem decoding_startStream (s : State) : Decoding (s.cfgFraming == 1) s.begin.startStream := by
  have hphase : s.begin.startStream.phase = if s.cfgFraming = 1 then .zlibHdr else .blockHdr := rfl
  refine ⟨rfl, rfl, ?_, ?_, fun _ hf => beq_iff_eq.2 hf⟩ <;> rw [hphase] <;> split_ifs with hf
  · nofun
  · nofun
  · exact fun _ => beq_iff_eq.2 hf
  · nofun

/-- A command that is done shows no error (R92). -/
theorem err_of_commandMove (h : CommandMove s t) (hdone : t.status = .done) : t.err = none := by
  induction h with
  | done u hkeeps => exact hkeeps.err
  | failed k e =>
    rw [State.raise_status] at hdone
    cases hdone
  | @block s t n _ hrun =>
    exact (endsIn_of_runElements s (decoding_startBlock s) hrun).err_of_done hdone
  | @stream s t n hrun =>
    exact (endsIn_of_runElements s (decoding_startStream s) hrun).err_of_done hdone
  | framed v _ ih => exact ih hdone

/-! ### Each command's row of R354 -/

/-- A command ends in its row when its body raises no other error. -/
theorem command_ends {k : ErrorKeep} {body : State → Except HwError State} {errs : List HwError}
    (hmove : CommandMove s t) (herr : ∀ e, body s.begin = .error e → e ∈ errs)
    (h : command k body s = .next t) : EndsIn s errs t := by
  rcases command_next.1 h with ⟨u, -, rfl⟩ | ⟨e, he, rfl⟩
  · exact .done rfl (err_of_commandMove hmove rfl)
  · by_cases hcfg : e = .invalidConfig
    · subst hcfg
      exact .refused (herr _ he)
    · exact .raised (herr e he) hcfg (by simp) (by simp)

theorem execBitinit_ends (h : execBitinit s = .next t) : EndsIn s [] t :=
  command_ends (execBitinit_move h) (fun e he => by cases he) h

theorem execAlignw_ends (h : execAlignw s = .next t) : EndsIn s [] t :=
  command_ends (execAlignw_move h) (fun e he => by cases he) h

theorem execAlignr_ends (h : execAlignr s = .next t) : EndsIn s [] t :=
  command_ends (execAlignr_move h) (fun e he => by cases he) h

theorem execAdler32_ends (h : execAdler32 s = .next t) : EndsIn s [] t :=
  command_ends (execAdler32_move h) (fun e he => by cases he) h

theorem execReservedCmd_ends {op : BitVec 8} (h : execReservedCmd op s = .next t) :
    EndsIn s [.invalidConfig] t :=
  command_ends (execReservedCmd_move h) (fun e he => by cases he; decide) h

theorem execWrbits_ends (h : execWrbits s = .next t) : EndsIn s [.invalidConfig] t :=
  command_ends (execWrbits_move h) (fun e he => by split_ifs at he; cases he; decide) h

theorem execTokenize_ends (h : execTokenize s = .next t) : EndsIn s [.invalidConfig] t :=
  command_ends (execTokenize_move h) (fun e he => by split_ifs at he; cases he; decide) h

theorem execEncblk_ends (h : execEncblk s = .next t) : EndsIn s [.invalidConfig] t :=
  command_ends (execEncblk_move h) (fun e he => by split_ifs at he; cases he; decide) h

theorem execCompress_ends (h : execCompress s = .next t) : EndsIn s [.invalidConfig] t :=
  command_ends (execCompress_move h) (fun e he => by split_ifs at he; cases he; decide) h

theorem execMfind_ends (h : execMfind s = .next t) : EndsIn s [.invalidConfig] t := by
  refine command_ends (execMfind_move h) (fun e he => ?_) h
  split_ifs at he
  · split at he <;> cases he
  · cases he; decide

theorem execHbuild_ends (h : execHbuild s = .next t) : EndsIn s [.invalidConfig] t := by
  refine command_ends (execHbuild_move h) (fun e he => ?_) h
  split at he <;> cases he
  decide

theorem execHput_ends (h : execHput s = .next t) : EndsIn s [.invalidConfig] t := by
  refine command_ends (execHput_move h) (fun e he => ?_) h
  split at he
  · cases he; decide
  · simp only at he
    split_ifs at he
    cases he
    decide

/-- `RDBITS` (R148): the bit count, then the bits left. -/
theorem execRdbits_ends (h : execRdbits s = .next t) : EndsIn s [.invalidConfig, .truncatedInput] t := by
  refine command_ends (execRdbits_move h) (fun e he => ?_) h
  split_ifs at he
  · cases he; decide
  · split at he <;> cases he
    decide

theorem execHcanon_ends (h : execHcanon s = .next t) :
    EndsIn s [.invalidConfig, .invalidHuffmanCode] t := by
  refine command_ends (execHcanon_move h) (fun e he => ?_) h
  split at he
  · cases he; decide
  · split_ifs at he
    cases he
    decide

theorem execHdbuild_ends (h : execHdbuild s = .next t) :
    EndsIn s [.invalidConfig, .invalidHuffmanCode] t := by
  refine command_ends (execHdbuild_move h) (fun e he => ?_) h
  split at he
  · cases he; decide
  · next a _ =>
    rcases buildDecoder_cases a (s.begin.lens a) s.begin with ⟨-, hb⟩ | ⟨-, hb⟩ <;> rw [hb] at he <;>
      cases he
    decide

/-- `HDSYM` (R196): the alphabet, then the errors of a codeword's reading. -/
theorem execHdsym_ends (h : execHdsym s = .next t) : EndsIn s (.invalidConfig :: readErrors) t := by
  refine command_ends (execHdsym_move h) (fun e he => ?_) h
  split at he
  · cases he; decide
  · split at he <;> cases he
    · next hsym => exact .tail _ (decodeSym_raises hsym)
    · decide

/-- A check that refuses with `InvalidConfig`, then the elements of a stream (R270, R310). -/
theorem ends_of_check {p : Prop} [Decidable p] {framed : Bool} {n : Nat} {u : State}
    (hu : Decoding framed u)
    (h : (if p then runElements n u else .next (s.begin.raise {} .invalidConfig)) = .next t) :
    EndsIn s (.invalidConfig :: streamErrors framed) t := by
  split_ifs at h
  · exact (endsIn_of_runElements s hu h).mono (List.subset_cons_self _ _)
  · cases h
    exact .refused (.head _)

theorem execDecblk_ends (h : execDecblk s = .next t) :
    EndsIn s (.invalidConfig :: streamErrors false) t :=
  ends_of_check (decoding_startBlock s) h

theorem execDecompress_ends (h : execDecompress s = .next t) :
    EndsIn s (.invalidConfig :: streamErrors (s.cfgFraming == 1)) t :=
  ends_of_check (decoding_startStream s) h

/-- Every command ends in its row of R354. -/
theorem exec_ends {i : Instr} (hi : i.opcode.isSome = true) (h : exec i s = .next t) :
    EndsIn s (allowedErrors (s.cfgFraming == 1) i) t := by
  cases i with
  | compress => exact execCompress_ends h
  | decompress => exact execDecompress_ends h
  | bitinit => exact execBitinit_ends h
  | wrbits => exact execWrbits_ends h
  | rdbits => exact execRdbits_ends h
  | alignw => exact execAlignw_ends h
  | alignr => exact execAlignr_ends h
  | hbuild => exact execHbuild_ends h
  | hcanon => exact execHcanon_ends h
  | hput => exact execHput_ends h
  | hdbuild => exact execHdbuild_ends h
  | hdsym => exact execHdsym_ends h
  | mfind => exact execMfind_ends h
  | tokenize => exact execTokenize_ends h
  | encblk => exact execEncblk_ends h
  | decblk => exact execDecblk_ends h
  | adler32 => exact execAdler32_ends h
  | reservedCmd op => exact execReservedCmd_ends (op := op) h
  | _ => cases hi

/-- The rows of the two decoding pseudo-commands have the errors of `DECOMPRESS` in their framing. -/
theorem zdecompress_row :
    ∀ framed, .invalidConfig :: streamErrors true ⊆ allowedErrors framed .zdecompress := by decide

theorem rawdecompress_row :
    ∀ framed, .invalidConfig :: streamErrors false ⊆ allowedErrors framed .rawdecompress := by decide

/-- A command or a pseudo-command ends in its row; a pseudo-command is its command begun with the framing
set (R95). -/
theorem exists_exec_ends {i : Instr} (hi : (encodeHost i).isSome = true) (h : exec i s = .next t) :
    ∃ u, EndsIn u (allowedErrors (s.cfgFraming == 1) i) t := by
  cases i with
  | zcompress => exact ⟨s.setFraming 1, execCompress_ends h⟩
  | rawcompress => exact ⟨s.setFraming 0, execCompress_ends h⟩
  | zdecompress => exact ⟨s.setFraming 1, (execDecompress_ends h).mono (zdecompress_row _)⟩
  | rawdecompress => exact ⟨s.setFraming 0, (execDecompress_ends h).mono (rawdecompress_row _)⟩
  | _ => exact ⟨s, exec_ends hi h⟩

end

/-- Settles O16: a command that ends with `InvalidConfig` is refused (`EndsIn`), since no other end shows
that error. -/
theorem invalidConfigChangesOnlyFlags : Obligations.InvalidConfigChangesOnlyFlags := by
  intro i s t hi h herr
  cases exec_ends hi h with
  | done _ hnone => rw [hnone] at herr; cases herr
  | refused => rfl
  | raised _ hne _ he => rw [he] at herr; cases herr; exact absurd rfl hne

/-- Settles O17: each command's end is one of its row (`exists_exec_ends`), and the flags show it. -/
theorem errorMatrix : Obligations.ErrorMatrix := by
  intro i s t hi h
  obtain ⟨u, hend⟩ := exists_exec_ends hi h
  exact hend.flags

end Sys2Proof.Machine
